-- ==== Sys2Proof/Word.lean ====
section
/-!
DEFINITION. The value types of SBCORE: the 32-bit word, the byte of a serialised ROM image, the 128-bit port value and
the four-lane `Int4`.
-/
namespace Sys2Proof

/-- A 32-bit value: every scalar operand, lane and ROM word (00_scope.md R5 `LANE_BITS`, R9 `u32`). -/
abbrev Word := BitVec 32

/-- A byte of the serialised ROM image (20_memory.md R25). -/
abbrev Byte := BitVec 8

/-- A 128-bit operand or result as it stands on the port (30_encoding.md R35, R36). -/
abbrev Wide := BitVec 128

/-- `Int4`, "a 4-lane 32-bit value abstraction" (45_int4.md R105): `l0` is lane 0. Lanes never interact. -/
structure Int4 where
  l0 : Word
  l1 : Word
  l2 : Word
  l3 : Word
  deriving DecidableEq, Repr

/-- Lane `k` of an `Int4` (00_scope.md R9, `v.k`). -/
def Int4.lane (v : Int4) (k : Fin 4) : Word :=
  match k with
  | 0 => v.l0
  | 1 => v.l1
  | 2 => v.l2
  | 3 => v.l3

end Sys2Proof
end

