-- ==== Sys2Proof/Syntax.lean ====
section
/-!
DEFINITION. The 21 operations of SBCORE, one constructor per row of spec/opcode_table.json (30_encoding.md R43), in the
table's order.
-/
namespace Sys2Proof

/-- An operation. Operand values travel in the request's fields `A` and `B` (30_encoding.md R35), so the only operands in
an instruction are the immediates of the command word: `sel` of RDCONST and `sh` of the two shifts, both the 5-bit field
`cmd[12:8]` (R37, R38). -/
inductive Instr where
  | rdconst (sel : BitVec 5)
  | rev32
  | hash
  | owen
  | sobol
  | tonorm
  | sample
  | i4Add
  | i4Sub
  | i4Mul
  | i4And
  | i4Or
  | i4Xor
  | i4Shl (sh : BitVec 5)
  | i4Shr (sh : BitVec 5)
  | i4Rev
  | i4Tonorm
  | hash4
  | owen4
  | sobol4
  | sample4d
  deriving DecidableEq, Repr

end Sys2Proof
end

