-- ==== Sys2Proof/WellFormed.lean ====
section
/-!
DEFINITION. Which terms of `Instr` the command word can carry legally.
-/
namespace Sys2Proof

/-- RDCONST has two legal selectors, 0 and 1 (30_encoding.md R37, R44); a shift amount is any 5-bit number (R38); every
other operation has no field. -/
def Instr.wf : Instr → Bool
  | .rdconst sel => sel.toNat < 2
  | .rev32 => true
  | .hash => true
  | .owen => true
  | .sobol => true
  | .tonorm => true
  | .sample => true
  | .i4Add => true
  | .i4Sub => true
  | .i4Mul => true
  | .i4And => true
  | .i4Or => true
  | .i4Xor => true
  | .i4Shl _ => true
  | .i4Shr _ => true
  | .i4Rev => true
  | .i4Tonorm => true
  | .hash4 => true
  | .owen4 => true
  | .sobol4 => true
  | .sample4d => true

end Sys2Proof
end

