-- ==== Sys2Proof/Decode.lean ====
section
/-!
DEFINITION. The command word (30_encoding.md R37), the opcode map (R43) as a table, the decoder over it, and the encoder.
-/
namespace Sys2Proof

/-- `OP = cmd[7:0]` (30_encoding.md R37). -/
def opField (cmd : Word) : BitVec 8 := cmd.extractLsb' 0 8

/-- `SH = cmd[12:8]` (30_encoding.md R37). -/
def shField (cmd : Word) : BitVec 5 := cmd.extractLsb' 8 5

/-- `RSV = cmd[31:13]` (30_encoding.md R37). -/
def rsvField (cmd : Word) : BitVec 19 := cmd.extractLsb' 13 19

/-- One row of the opcode map: a command word `w` selects it when `w &&& mask = bits`; `build` makes the instruction from
the field `SH`. -/
structure OpcodeRow where
  mask : Word
  bits : Word
  build : BitVec 5 → Instr

/-- A row whose `SH` must be 0. -/
def plainRow (op : Word) (i : Instr) : OpcodeRow := ⟨0xFFFFFFFF, op, fun _ => i⟩

/-- The opcode map, in the order of 30_encoding.md R43. -/
def opcodeTable : List OpcodeRow :=
  [ ⟨0xFFFFFEFF, 0x00000001, .rdconst⟩,
    plainRow 0x00000010 .rev32,
    plainRow 0x00000011 .hash,
    plainRow 0x00000012 .owen,
    plainRow 0x00000013 .sobol,
    plainRow 0x00000014 .tonorm,
    plainRow 0x00000015 .sample,
    plainRow 0x00000020 .i4Add,
    plainRow 0x00000021 .i4Sub,
    plainRow 0x00000022 .i4Mul,
    plainRow 0x00000023 .i4And,
    plainRow 0x00000024 .i4Or,
    plainRow 0x00000025 .i4Xor,
    ⟨0xFFFFE0FF, 0x00000026, .i4Shl⟩,
    ⟨0xFFFFE0FF, 0x00000027, .i4Shr⟩,
    plainRow 0x00000028 .i4Rev,
    plainRow 0x00000029 .i4Tonorm,
    plainRow 0x00000031 .hash4,
    plainRow 0x00000032 .owen4,
    plainRow 0x00000033 .sobol4,
    plainRow 0x00000035 .sample4d ]

/-- Whether a command word selects a row (30_encoding.md R43). -/
def OpcodeRow.selects (row : OpcodeRow) (cmd : Word) : Bool := cmd &&& row.mask == row.bits

/-- Why a command word is illegal (30_encoding.md R44). The block reports all four alike, as ILLEGAL_COMMAND. -/
inductive IllegalCommand where
  /-- `OP` is not in the opcode map. -/
  | unassignedOp (op : BitVec 8)
  /-- `RSV` is not 0. -/
  | reservedBits (rsv : BitVec 19)
  /-- RDCONST with a selector of 2 or more. -/
  | selectorRange (sel : BitVec 5)
  /-- `SH` is not 0 with an operation whose row says 0. -/
  | shiftNotZero (sh : BitVec 5)
  deriving DecidableEq, Repr

/-- The name of a command word that selects no row. -/
def illegalReason (cmd : Word) : IllegalCommand :=
  if opcodeTable.any (fun row => opField row.bits == opField cmd) then
    if rsvField cmd != 0 then .reservedBits (rsvField cmd)
    else if opField cmd == 0x01 then .selectorRange (shField cmd)
    else .shiftNotZero (shField cmd)
  else .unassignedOp (opField cmd)

/-- The decoder, total on all 2^32 command words (60_exceptions.md R138): the row a word selects, or why it selects
none. -/
def decode (cmd : Word) : Except IllegalCommand Instr :=
  match opcodeTable.find? (fun row => row.selects cmd) with
  | some row => .ok (row.build (shField cmd))
  | none => .error (illegalReason cmd)

/-- The command word `{RSV = 0, SH, OP}` (30_encoding.md R37). -/
def commandWord (op : BitVec 8) (sh : BitVec 5) : Word := (0#19 ++ sh ++ op).cast (by decide)

/-- The command word of an instruction, from the `OP` column of 30_encoding.md R43. For an instruction that is not well
formed (RDCONST with a selector of 2 or more) it is the word of R44's illegal encoding. -/
def encode : Instr → Word
  | .rdconst sel => commandWord 0x01 sel
  | .rev32 => commandWord 0x10 0
  | .hash => commandWord 0x11 0
  | .owen => commandWord 0x12 0
  | .sobol => commandWord 0x13 0
  | .tonorm => commandWord 0x14 0
  | .sample => commandWord 0x15 0
  | .i4Add => commandWord 0x20 0
  | .i4Sub => commandWord 0x21 0
  | .i4Mul => commandWord 0x22 0
  | .i4And => commandWord 0x23 0
  | .i4Or => commandWord 0x24 0
  | .i4Xor => commandWord 0x25 0
  | .i4Shl sh => commandWord 0x26 sh
  | .i4Shr sh => commandWord 0x27 sh
  | .i4Rev => commandWord 0x28 0
  | .i4Tonorm => commandWord 0x29 0
  | .hash4 => commandWord 0x31 0
  | .owen4 => commandWord 0x32 0
  | .sobol4 => commandWord 0x33 0
  | .sample4d => commandWord 0x35 0

/-- The command word whose low `nbits` bits are those of `w` and whose other bits are 0, where it is one word of 32 bits
(30_encoding.md R37: there is one instruction length). -/
def tableWord (nbits w : Nat) : Option Word :=
  if w % 2 ^ nbits < 2 ^ 32 then some (BitVec.ofNat 32 (w % 2 ^ nbits)) else none

/-- What the decoder reads from an opcode-table word of `nbits` bits. -/
def decodeTableWord (nbits w : Nat) : Option Instr :=
  match tableWord nbits w with
  | none => none
  | some cmd =>
    match decode cmd with
    | .ok i => some i
    | .error _ => none

end Sys2Proof
end

