-- ==== Sys2Proof/Config.lean ====
section
/-!
DEFINITION. What is fixed for one SBCORE and no request can change (00_scope.md R5 to R8, 10_state.md R17, R18): the
constants the spec gives, and the ones it leaves open as opaque constants with no body, so that no proof can see a value.
-/
namespace Sys2Proof.Config

/-- The parameters of 00_scope.md R6, which SB fixes with a default and lets vary, as configuration fields with R6's
constraints: `NUM_DIMENSIONS` and `NUM_DIMENSION_SETS_4D`. The operations that depend on them take a geometry, so that claims can
be stated for other numbers. The values after `:=` are the default. -/
structure Geometry where
  /-- `NUM_DIMENSIONS`. -/
  numDimensions : Nat := 256
  /-- `NUM_DIMENSION_SETS_4D`. -/
  numDimensionSets4D : Nat := numDimensions / 4
  numDimensions_mod_four : numDimensions % 4 = 0 := by decide
  four_le_numDimensions : 4 ≤ numDimensions := by decide
  numDimensionSets4D_eq : numDimensionSets4D = numDimensions / 4 := by rfl
  deriving DecidableEq, Repr

/-- The geometry of this hardware: `NUM_DIMENSIONS = 256`, `NUM_DIMENSION_SETS_4D = 64` (00_scope.md R6, D3; assumption
15). -/
def geometry : Geometry := {}

/-- `NUM_LEVELS`: 16 levels, 0 to 15 (00_scope.md R5, 90_conflicts.md C1). -/
abbrev numLevels : Nat := 16

/-- `2^INDEX_BITS`: sample indices below it are specified (00_scope.md R5, 44_sampling.md R92). -/
abbrev indexBound : Nat := 65536

/-- `C1` of the hash (00_scope.md R5). -/
abbrev c1 : Word := 0x7feb352d

/-- `C2` of the hash (00_scope.md R5). -/
abbrev c2 : Word := 0x846ca68b

/-- The numeric constants SB names without values, each with the constraint of 00_scope.md R7 (decisions D17 to D21;
assumption 5). The values after `:=` only show that the constraints can be met together; `constants` below is opaque. -/
structure Constants where
  kHashIn : Word := 1
  kShuffle : Word := 0
  kSeedMul : Word := 1
  kLane : Int4 := ⟨0, 1, 2, 3⟩
  owenM1 : Word := 0
  owenM2 : Word := 0
  owenM3 : Word := 0
  kHashIn_ne_zero : kHashIn ≠ 0 := by decide
  kSeedMul_odd : kSeedMul.getLsbD 0 = true := by decide
  kLane_distinct : kLane.l0 ≠ kLane.l1 ∧ kLane.l0 ≠ kLane.l2 ∧ kLane.l0 ≠ kLane.l3 ∧ kLane.l1 ≠ kLane.l2 ∧
    kLane.l1 ≠ kLane.l3 ∧ kLane.l2 ≠ kLane.l3 := by decide
  owenM1_even : owenM1.getLsbD 0 = false := by decide
  owenM2_even : owenM2.getLsbD 0 = false := by decide
  owenM3_even : owenM3.getLsbD 0 = false := by decide
  deriving DecidableEq, Repr, Inhabited

/-- The block's constants: open parameters (93_implementation_defined.md U8). -/
opaque constants : Constants

/-- The strap `INDEX_CHECK` (00_scope.md R8, D15). -/
inductive IndexCheck where
  | validating
  | fast
  deriving DecidableEq, Repr, Inhabited

/-- The block's `INDEX_CHECK`: an open parameter (93_implementation_defined.md U2; assumption 6). -/
opaque indexCheck : IndexCheck

/-- The strap `BACKEND` (00_scope.md R8). -/
inductive Backend where
  | native
  | fallback
  deriving DecidableEq, Repr

/-- The strap `MUL_IMPL` (00_scope.md R8), meaningful only with the Native backend. -/
inductive MulImpl where
  | hw
  | emulated
  deriving DecidableEq, Repr

/-- The straps that select an Int4 datapath (45_int4.md R122). -/
structure Datapath where
  backend : Backend
  mulImpl : MulImpl
  deriving DecidableEq, Repr

/-- DESIGN CHOICE (assumption 8; 93_implementation_defined.md U3 lets a model fix FALLBACK): the straps of the modelled
block. Every Int4 step goes through the multiplexer with them; no response depends on them (45_int4.md R123). -/
def datapath : Datapath := ⟨.fallback, .hw⟩

/-- One record of `DIRECTION_DATASET`: the degree `s`, the inner coefficients `a` and the seed values `m[0..s)` of one
dimension (40_dvtable.md R56), valid as 00_scope.md R7 and decision D25 require (assumption 4). The values after `:=` only
show that a valid record exists. -/
structure DirectionRecord where
  s : Nat := 1
  a : Nat := 0
  m : List Nat := [1]
  s_pos : 1 ≤ s := by decide
  s_le : s ≤ 16 := by decide
  m_length : m.length = s := by decide
  m_odd : ∀ i < s, m.getD i 0 % 2 = 1 := by decide
  m_lt : ∀ i < s, m.getD i 0 < 2 ^ (i + 1) := by decide
  a_lt : a < 2 ^ (s - 1) := by decide
  deriving DecidableEq, Repr, Inhabited

/-- `DIRECTION_DATASET`: `directionRecord j` is the `j`-th valid record, `j = 1, 2, …`, which defines dimension `j`
(40_dvtable.md R63). An open parameter (D25). -/
opaque directionRecord : Nat → DirectionRecord

/-- The unspecified values drawn by SAMPLE and SAMPLE4D for `sample_index >= 2^16` in the FAST configuration: `freeWord n`
is the `u32` `y` of the `n`-th draw, whose `tonorm y` is the value returned (44_sampling.md R92,
93_implementation_defined.md U1; assumption 7). A free value: nothing constrains it. -/
opaque freeWord : Nat → Word

end Sys2Proof.Config
end

