-- ==== Sys2Proof/Machine/State.lean ====
section
/-!
DEFINITION. The state of SBCORE, the requests and responses of its port, and the reasons a step can stop.
-/
namespace Sys2Proof.Machine

/-- A request (30_encoding.md R35): three values presented together on the port. -/
structure Request where
  /-- The command word. -/
  cmd : Word
  /-- The first operand field `A`. -/
  a : Wide
  /-- The second operand field `B`. -/
  b : Wide
  deriving DecidableEq, Repr

/-- The four faults of the block (60_exceptions.md R126, R137). Each is a response status: taking one is a NEXT state. -/
inductive FaultCode where
  /-- `cmd` matches no row of the opcode map (R138). -/
  | illegalCommand
  /-- SOBOL, SAMPLE: `dimension >= NUM_DIMENSIONS` (R139). -/
  | dimensionRange
  /-- SOBOL4, SAMPLE4D: `dimension_set >= NUM_DIMENSION_SETS_4D` (R140). -/
  | dimensionSetRange
  /-- SAMPLE, SAMPLE4D with INDEX_CHECK = VALIDATING: `sample_index >= 2^16` (R141). -/
  | indexRange
  deriving DecidableEq, Repr

/-- A response (30_encoding.md R36): a complete result or a fault, never both; a fault carries no `R`
(93_implementation_defined.md U6). -/
inductive Response where
  | ok (r : Wide)
  | fault (code : FaultCode)
  deriving DecidableEq, Repr

/-- A request with the one response it produced (70_reset_and_hazards.md R162). -/
structure Exchange where
  request : Request
  response : Response
  deriving DecidableEq, Repr

/-- The bytes of the ROM's serialised image (20_memory.md R25) that are listed, addresses strictly rising; a byte not
listed is the image's (`Memory.unlisted`, assumption 3). -/
abbrev Memory := List Host.Cell

/-- The machine. The ROM is the block's only architectural state (10_state.md R16); requests in flight are what reset drops
(R19, 70_reset_and_hazards.md R150); `delivered` and `draws` are the model's own. -/
structure State where
  /-- The DirectionVectorTable ROM. Nothing writes it (R16, 40_dvtable.md R68). -/
  rom : Memory
  /-- Requests accepted and not yet answered, oldest first. -/
  inFlight : List Request
  /-- The exchanges of the run so far, oldest first: the observable of a run (R162). No operation reads it. -/
  delivered : List Exchange
  /-- How many values of `Config.freeWord` have been drawn (44_sampling.md R92). -/
  draws : Nat
  deriving DecidableEq, Repr

/-- Reasons the machine would stop. -/
inductive Fault where
  /-- A ROM read beyond the last word, raised by the ROM reads of Ops.lean through SOBOL, SOBOL4, SAMPLE and SAMPLE4D.
  20_memory.md R28 says it cannot occur; it is safe, and no step reaches it (assumption 19). -/
  | romAddress
  deriving DecidableEq, Repr

/-- Reasons the model has no next state to give. -/
inductive Refusal where
  /-- An instruction with no meaning yet, raised by the dispatcher's arm; safe. None is left. -/
  | notModelled (mnemonic : String)
  /-- `exec` was asked for an operation while no request is in flight, so there are no operands; raised by every meaning;
  safe, and no step reaches it (assumption 11). -/
  | noRequest
  deriving DecidableEq, Repr

/-- The machine right after reset (10_state.md R19, 70_reset_and_hazards.md R150): the ROM is `DV_IMAGE` and no request is
in flight. -/
def State.reset : State := { rom := [], inFlight := [], delivered := [], draws := 0 }

end Sys2Proof.Machine
end

