-- ==== Sys2Proof/Machine/Flags.lean ====
section
/-!
DEFINITION. The block has no flags, condition codes or predicates (10_state.md R13). What it computes beside a result is
the response status (60_exceptions.md R137) and the unsigned range checks that decide it (45_int4.md R125).
-/
namespace Sys2Proof.Machine

/-- The status code of a fault (60_exceptions.md R137). -/
def faultStatus : FaultCode → BitVec 8
  | .illegalCommand => 0x01
  | .dimensionRange => 0x02
  | .dimensionSetRange => 0x03
  | .indexRange => 0x04

/-- The status byte of a response (30_encoding.md R36, 60_exceptions.md R137). -/
def responseStatus : Response → BitVec 8
  | .ok _ => 0x00
  | .fault code => faultStatus code

/-- `dimension < NUM_DIMENSIONS`, an unsigned comparison of the whole operand (41_sobol_scalar.md R75). -/
def dimensionInRange (geo : Config.Geometry) (dimension : Word) : Bool := dimension.toNat < geo.numDimensions

/-- `dimension_set < NUM_DIMENSION_SETS_4D`, an unsigned comparison of the whole operand (60_exceptions.md R140). -/
def dimensionSetInRange (geo : Config.Geometry) (dimensionSet : Word) : Bool := dimensionSet.toNat < geo.numDimensionSets4D

/-- `sample_index < 2^16` (44_sampling.md R92). -/
def indexInRange (sampleIndex : Word) : Bool := sampleIndex.toNat < Config.indexBound

end Sys2Proof.Machine
end

