-- ==== Sys2Proof/Machine/Bits.lean ====
section
/-!
DEFINITION. Bit reversal, leading zeros, and the byte order of the serialised ROM image.
-/
namespace Sys2Proof.Machine

/-- Reversal of a `W`-bit word as 44_sampling.md R94 writes it: the OR over `j` of `x[W-1-j] << j`. -/
def revBits {W : Nat} (x : BitVec W) : BitVec W :=
  (List.range W).foldr (fun j acc => (if x.getLsbD (W - 1 - j) then 1#W <<< j else 0#W) ||| acc) 0#W

/-- `rev32` (44_sampling.md R94): bit `j` of the result is bit `31 - j` of `x`. -/
def rev32 (x : Word) : Word := revBits x

/-- `clz32` (00_scope.md R9): the number of zero bits above the most significant 1 bit, 32 for 0. -/
def clz32 (v : Word) : Nat := if v = 0 then 32 else 31 - v.toNat.log2

/-- Byte `j` of a word in the serialised image, least significant byte first (20_memory.md R25, D7). -/
def byteOfWord (w : Word) (j : Nat) : Byte := w.extractLsb' (8 * j) 8

/-- The word whose serialised bytes are `b0`, `b1`, `b2`, `b3` (20_memory.md R25, D7). -/
def wordOfBytes (b0 b1 b2 b3 : Byte) : Word := b3 ++ b2 ++ b1 ++ b0

end Sys2Proof.Machine
end

