-- ==== Sys2Proof/Machine/Float.lean ====
section
/-!
DEFINITION. The conversion to a float in [0, 1): on integers (44_sampling.md R98), and as the binary32 subtraction that
R97 and 45_int4.md R119 write.
-/
namespace Sys2Proof.Machine

/-- `tonorm` on integers (44_sampling.md R98): `k` is the top 23 bits, `p` the position of its most significant 1 bit; the
pattern of `k * 2^-23`, and +0.0 for `k = 0` (D27). -/
def tonorm (n : Word) : Word :=
  let k := (n >>> 9).toNat
  if k = 0 then 0
  else
    let p := k.log2
    BitVec.ofNat 32 (((104 + p) <<< 23) ||| ((k - 2 ^ p) <<< (23 - p)))

/-- The value of a finite binary32 pattern as a multiple of `2^-149`, the unit of the smallest subnormal: sign bit 31,
exponent bits 30:23, fraction bits 22:0 (00_scope.md R9). Every finite binary32 value is such a multiple (assumption 13). -/
def f32Units (b : Word) : Int :=
  let e : Nat := (b >>> 23).toNat % 256
  let f : Nat := b.toNat % 2 ^ 23
  let mag : Nat := if e = 0 then f else (2 ^ 23 + f) * 2 ^ (e - 1)
  if b.getLsbD 31 then -(mag : Int) else mag

/-- The binary32 pattern of the value `v * 2^-149`, for a value that binary32 represents exactly; zero is +0.0 (D27;
assumption 13). -/
def f32OfUnits (v : Int) : Word :=
  let m : Nat := v.natAbs
  let pattern : Nat :=
    if m < 2 ^ 23 then m
    else
      let p := m.log2
      ((p - 22) <<< 23) ||| (m / 2 ^ (p - 23) - 2 ^ 23)
  let sign : Nat := if v < 0 then 2 ^ 31 else 0
  BitVec.ofNat 32 (sign ||| pattern)

/-- The binary32 difference of two finite patterns whose difference binary32 represents exactly, as it does for the one
subtraction of the block (44_sampling.md R98). -/
def f32Sub (a b : Word) : Word := f32OfUnits (f32Units a - f32Units b)

/-- The pattern of the float in [1, 2) whose fraction is the top 23 bits of `n` (44_sampling.md R97). -/
def mantissaBits (n : Word) : Word := 0x3F800000 ||| (n >>> 9)

/-- `tonorm` as 44_sampling.md R97 writes it: put the top 23 bits under the exponent of [1, 2), then subtract 1.0. -/
def tonormFloat (n : Word) : Word := f32Sub (mantissaBits n) 0x3F800000

end Sys2Proof.Machine
end

