-- ==== Sys2Proof/Machine/Operands.lean ====
section
/-!
DEFINITION. How values stand on the port: lane packing (20_memory.md R26) and the operand and result places of
30_encoding.md R39 to R41.
-/
namespace Sys2Proof.Machine

/-- The `Int4` a 128-bit value carries: lane `k` is bits `32k+31 : 32k` (20_memory.md R26). -/
def unpack (v : Wide) : Int4 :=
  ⟨v.extractLsb' 0 32, v.extractLsb' 32 32, v.extractLsb' 64 32, v.extractLsb' 96 32⟩

/-- The 128-bit value that carries an `Int4`: lane 0 least significant (20_memory.md R26). -/
def pack (v : Int4) : Wide := v.l3 ++ v.l2 ++ v.l1 ++ v.l0

/-- One scalar in all four lanes (45_int4.md R105). -/
def splat (c : Word) : Int4 := ⟨c, c, c, c⟩

/-- A lane-wise function of one operand (45_int4.md R106). -/
def mapLanes (f : Word → Word) (a : Int4) : Int4 := ⟨f a.l0, f a.l1, f a.l2, f a.l3⟩

/-- A lane-wise function of two operands (45_int4.md R106). -/
def zipLanes (f : Word → Word → Word) (a b : Int4) : Int4 := ⟨f a.l0 b.l0, f a.l1 b.l1, f a.l2 b.l2, f a.l3 b.l3⟩

/-- Operand `A` of a request as an `Int4` (30_encoding.md R35, R40). -/
def operandA (r : Request) : Int4 := unpack r.a

/-- Operand `B` of a request as an `Int4` (30_encoding.md R35, R40). -/
def operandB (r : Request) : Int4 := unpack r.b

/-- The first scalar operand, `A.0`: `x`, `n`, `n_rev`, `index_rev` or `sample_index` (30_encoding.md R39, R40). -/
def scalar1 (r : Request) : Word := (operandA r).l0

/-- The second scalar operand, `B.0`: `scramble`, `dimension` or `dimension_set` (30_encoding.md R39, R40). -/
def scalar2 (r : Request) : Word := (operandB r).l0

/-- The third scalar operand, `B.1`: `seed` (30_encoding.md R39, R40). -/
def scalar3 (r : Request) : Word := (operandB r).l1

/-- The result of a scalar operation: lane 0, the other lanes 0 (30_encoding.md R39). -/
def scalarResult (w : Word) : Int4 := ⟨w, 0, 0, 0⟩

end Sys2Proof.Machine
end

