-- ==== Sys2Proof/Machine/Int4.lean ====
section
/-!
DEFINITION. The Int4 operations in their two datapaths, and the multiplexer that selects one (45_int4.md R120 to R122).
-/
namespace Sys2Proof.Machine

open Config (Datapath)

/-! The Fallback datapath: the meaning of each operation, executed one lane at a time (45_int4.md R120). -/

/-- 45_int4.md R107. -/
def fallbackAdd (a b : Int4) : Int4 := zipLanes (· + ·) a b

/-- 45_int4.md R108. -/
def fallbackSub (a b : Int4) : Int4 := zipLanes (· - ·) a b

/-- 45_int4.md R109. -/
def fallbackMul (a b : Int4) : Int4 := zipLanes (· * ·) a b

/-- 45_int4.md R110. -/
def fallbackAnd (a b : Int4) : Int4 := zipLanes (· &&& ·) a b

/-- 45_int4.md R111. -/
def fallbackOr (a b : Int4) : Int4 := zipLanes (· ||| ·) a b

/-- 45_int4.md R113. -/
def fallbackXor (a b : Int4) : Int4 := zipLanes (· ^^^ ·) a b

/-- 45_int4.md R114. -/
def fallbackShl (a : Int4) (sh : BitVec 5) : Int4 := mapLanes (· <<< sh.toNat) a

/-- 45_int4.md R115. -/
def fallbackShr (a : Int4) (sh : BitVec 5) : Int4 := mapLanes (· >>> sh.toNat) a

/-- 45_int4.md R116. -/
def fallbackRev (a : Int4) : Int4 := mapLanes rev32 a

/-- 45_int4.md R118. -/
def fallbackTonorm (a : Int4) : Int4 := mapLanes tonorm a

/-! The Native datapath: a 128-bit vector unit (45_int4.md R121). Its single lane-wise steps are those of R107 to R115. -/

/-- A single lane-wise step (45_int4.md R121). -/
def nativeAdd (a b : Int4) : Int4 := ⟨a.l0 + b.l0, a.l1 + b.l1, a.l2 + b.l2, a.l3 + b.l3⟩

/-- A single lane-wise step (45_int4.md R121). -/
def nativeSub (a b : Int4) : Int4 := ⟨a.l0 - b.l0, a.l1 - b.l1, a.l2 - b.l2, a.l3 - b.l3⟩

/-- A single lane-wise step (45_int4.md R121). -/
def nativeAnd (a b : Int4) : Int4 := ⟨a.l0 &&& b.l0, a.l1 &&& b.l1, a.l2 &&& b.l2, a.l3 &&& b.l3⟩

/-- A single lane-wise step (45_int4.md R121). -/
def nativeOr (a b : Int4) : Int4 := ⟨a.l0 ||| b.l0, a.l1 ||| b.l1, a.l2 ||| b.l2, a.l3 ||| b.l3⟩

/-- A single lane-wise step (45_int4.md R121). -/
def nativeXor (a b : Int4) : Int4 := ⟨a.l0 ^^^ b.l0, a.l1 ^^^ b.l1, a.l2 ^^^ b.l2, a.l3 ^^^ b.l3⟩

/-- A single lane-wise step (45_int4.md R121). -/
def nativeShl (a : Int4) (sh : BitVec 5) : Int4 := ⟨a.l0 <<< sh, a.l1 <<< sh, a.l2 <<< sh, a.l3 <<< sh⟩

/-- A single lane-wise step (45_int4.md R121). -/
def nativeShr (a : Int4) (sh : BitVec 5) : Int4 := ⟨a.l0 >>> sh, a.l1 >>> sh, a.l2 >>> sh, a.l3 >>> sh⟩

/-- `MUL_IMPL = HW`: a 4-lane multiplier that keeps the low 32 bits (45_int4.md R112). -/
def nativeMulHw (a b : Int4) : Int4 := ⟨a.l0 * b.l0, a.l1 * b.l1, a.l2 * b.l2, a.l3 * b.l3⟩

/-- The wide multiplier: the two full 64-bit products of the even lanes (45_int4.md R112). -/
def wideMul (x y : Int4) : BitVec 64 × BitVec 64 :=
  (x.l0.setWidth 64 * y.l0.setWidth 64, x.l2.setWidth 64 * y.l2.setWidth 64)

/-- The odd lanes moved into even position; lanes 1 and 3 are don't-care, and `wideMul` does not read them (45_int4.md
R112). -/
def oddToEven (x : Int4) : Int4 := ⟨x.l1, x.l2, x.l3, x.l0⟩

/-- `MUL_IMPL = EMULATED`: two wide multiplies, the low halves put back in lane order (45_int4.md R112). -/
def nativeMulEmulated (a b : Int4) : Int4 :=
  let even := wideMul a b
  let odd := wideMul (oddToEven a) (oddToEven b)
  ⟨even.1.setWidth 32, odd.1.setWidth 32, even.2.setWidth 32, odd.2.setWidth 32⟩

/-- One stage of the swap-mask cascade: exchange adjacent groups of `sh` bits (45_int4.md R117). -/
def swapStage (mask : Word) (sh : BitVec 5) (x : Int4) : Int4 :=
  nativeOr (nativeAnd (nativeShr x sh) (splat mask)) (nativeShl (nativeAnd x (splat mask)) sh)

/-- The five-stage cascade (45_int4.md R117). -/
def nativeRev (a : Int4) : Int4 :=
  let x := swapStage 0x55555555 1 a
  let x := swapStage 0x33333333 2 x
  let x := swapStage 0x0F0F0F0F 4 x
  let x := swapStage 0x00FF00FF 8 x
  nativeOr (nativeShr x 16) (nativeShl x 16)

/-- Bit reinterpretation and the vector float subtraction of 1.0 (45_int4.md R119). -/
def nativeTonorm (a : Int4) : Int4 :=
  let bits := nativeOr (nativeShr a 9) (splat 0x3F800000)
  zipLanes f32Sub bits (splat 0x3F800000)

/-! The multiplexer: the straps select which datapath drives the result (45_int4.md R122). -/

/-- I4.ADD (45_int4.md R107, R122). -/
def i4Add (dp : Datapath) (a b : Int4) : Int4 :=
  match dp.backend with
  | .fallback => fallbackAdd a b
  | .native => nativeAdd a b

/-- I4.SUB (45_int4.md R108, R122). -/
def i4Sub (dp : Datapath) (a b : Int4) : Int4 :=
  match dp.backend with
  | .fallback => fallbackSub a b
  | .native => nativeSub a b

/-- I4.MUL (45_int4.md R109, R112, R122). -/
def i4Mul (dp : Datapath) (a b : Int4) : Int4 :=
  match dp.backend, dp.mulImpl with
  | .fallback, _ => fallbackMul a b
  | .native, .hw => nativeMulHw a b
  | .native, .emulated => nativeMulEmulated a b

/-- I4.AND (45_int4.md R110, R122). -/
def i4And (dp : Datapath) (a b : Int4) : Int4 :=
  match dp.backend with
  | .fallback => fallbackAnd a b
  | .native => nativeAnd a b

/-- I4.OR (45_int4.md R111, R122). -/
def i4Or (dp : Datapath) (a b : Int4) : Int4 :=
  match dp.backend with
  | .fallback => fallbackOr a b
  | .native => nativeOr a b

/-- I4.XOR (45_int4.md R113, R122). -/
def i4Xor (dp : Datapath) (a b : Int4) : Int4 :=
  match dp.backend with
  | .fallback => fallbackXor a b
  | .native => nativeXor a b

/-- I4.SHL (45_int4.md R114, R122). -/
def i4Shl (dp : Datapath) (a : Int4) (sh : BitVec 5) : Int4 :=
  match dp.backend with
  | .fallback => fallbackShl a sh
  | .native => nativeShl a sh

/-- I4.SHR (45_int4.md R115, R122). -/
def i4Shr (dp : Datapath) (a : Int4) (sh : BitVec 5) : Int4 :=
  match dp.backend with
  | .fallback => fallbackShr a sh
  | .native => nativeShr a sh

/-- I4.REV (45_int4.md R116, R117, R122). -/
def i4Rev (dp : Datapath) (a : Int4) : Int4 :=
  match dp.backend with
  | .fallback => fallbackRev a
  | .native => nativeRev a

/-- I4.TONORM (45_int4.md R118, R119, R122). -/
def i4Tonorm (dp : Datapath) (a : Int4) : Int4 :=
  match dp.backend with
  | .fallback => fallbackTonorm a
  | .native => nativeTonorm a

/-! Conformance (45_int4.md R124): the inputs on which the backends are compared, and the comparison. -/

/-- The boundary lane values: zero, all-ones, single high bit (45_int4.md R124). -/
def boundaryLanes : List Word := [0x00000000, 0xFFFFFFFF, 0x80000000]

/-- The boundary shift amounts (45_int4.md R124). -/
def boundaryShifts : List (BitVec 5) := [0, 31]

/-- Every pair of operands whose lanes are one boundary value each; lanes do not interact (45_int4.md R105), so this meets every
pair of boundary values in every lane. -/
def boundaryOperands : List (Int4 × Int4) :=
  boundaryLanes.flatMap fun x => boundaryLanes.map fun y => (splat x, splat y)

/-- Whether two settings of the straps give the same bits for the ten Int4 operations on operands `a`, `b` and a shift amount:
one comparison of the shared conformance suite (45_int4.md R123, R124). -/
def backendsAgreeOn (dp dp' : Datapath) (a b : Int4) (sh : BitVec 5) : Bool :=
  i4Add dp a b == i4Add dp' a b && i4Sub dp a b == i4Sub dp' a b && i4Mul dp a b == i4Mul dp' a b &&
    i4And dp a b == i4And dp' a b && i4Or dp a b == i4Or dp' a b && i4Xor dp a b == i4Xor dp' a b &&
    i4Shl dp a sh == i4Shl dp' a sh && i4Shr dp a sh == i4Shr dp' a sh && i4Rev dp a == i4Rev dp' a &&
    i4Tonorm dp a == i4Tonorm dp' a

/-- The conformance suite on the boundary inputs (45_int4.md R124). -/
def boundaryConformance (dp dp' : Datapath) : Bool :=
  boundaryOperands.all fun p => boundaryShifts.all fun sh => backendsAgreeOn dp dp' p.1 p.2 sh

end Sys2Proof.Machine
end

