-- ==== Sys2Proof/Machine/DvTable.lean ====
section
/-!
DEFINITION. The contents of the DirectionVectorTable: the image `DV_IMAGE` as a function of the direction-number dataset
(40_dvtable.md R55 to R62).
-/
namespace Sys2Proof.Machine

open Config (DirectionRecord)

/-- The direction vector after the vectors `v` (levels `0` to `v.length - 1`) of a record, in the natural domain, on
`W`-bit words: a seed entry at levels below `s` (40_dvtable.md R58), the recurrence from level `s` on (R59). -/
def nextVector (W : Nat) (r : DirectionRecord) (v : List (BitVec W)) : BitVec W :=
  let i := v.length
  if i < r.s then BitVec.ofNat W (r.m.getD i 0) <<< (W - 1 - i)
  else
    let old := v.getD (i - r.s) 0
    (List.range' 1 (r.s - 1)).foldl
      (fun x k => if r.a.testBit (r.s - 1 - k) then x ^^^ v.getD (i - k) 0 else x)
      (old ^^^ (old >>> r.s))

/-- The first `n` direction vectors of a record, level 0 first, in the natural domain on `W`-bit words. -/
def naturalVectors (W : Nat) (r : DirectionRecord) : Nat → List (BitVec W)
  | 0 => []
  | n + 1 => naturalVectors W r n ++ [nextVector W r (naturalVectors W r n)]

/-- The stored word of a record at a level, generated on `W`-bit words: the `W`-bit reversal of the direction vector
(40_dvtable.md R60), widened with zeros to a ROM word. -/
def storedOfRecord (W : Nat) (r : DirectionRecord) (l : Nat) : Word :=
  (revBits ((naturalVectors W r (l + 1)).getD l 0)).setWidth 32

/-- The stored word of dimension `d` at level `l`: the identity pattern for dimension 0 (40_dvtable.md R57), else the
generation on 32-bit words from the record that defines the dimension (R58 to R60, R63). -/
def storedWord (d l : Nat) : Word :=
  if d = 0 then (1 : Word) <<< l else storedOfRecord 32 (Config.directionRecord d) l

/-- `DV_IMAGE[g][l][k]`, the interleave of 40_dvtable.md R61. -/
def dvImage (g l k : Nat) : Word := storedWord (4 * g + k) l

end Sys2Proof.Machine
end

