-- ==== Sys2Proof/Machine/Ops.lean ====
section
/-!
DEFINITION. The named operations: ROM reads, the exposed constants, answering a request, taking a fault, and the host's
inputs.
-/
namespace Sys2Proof.Machine

/-- The number of ROM words: word addresses are below it (10_state.md R16, 20_memory.md R22). -/
def romWords (geo : Config.Geometry) : Nat := geo.numDimensionSets4D * Config.numLevels * 4

/-- The word address of `ROM[g][l][k]` (20_memory.md R22). -/
def waddr (g l k : Nat) : Nat := (g * 16 + l) * 4 + k

/-- The row address of `RomRow(g, l)` (20_memory.md R22). -/
def raddr (g l : Nat) : Nat := g * 16 + l

/-- The image's word at a word address: `g = waddr >> 6`, `l = (waddr >> 2) & 15`, `k = waddr & 3` (20_memory.md R23). -/
def imageWord (w : Nat) : Word := dvImage (w / 64) (w / 4 % 16) (w % 4)

/-- What a byte that is not listed reads as: the image's byte, the ROM's value at reset and always (10_state.md R19). Byte
address `4 * waddr + j` holds byte `j` of the word (20_memory.md R25). -/
def Memory.unlisted (a : Nat) : Byte := byteOfWord (imageWord (a / 4)) (a % 4)

/-- A byte of the ROM's serialised image, listed or not. -/
def Memory.byteAt : Memory → Nat → Byte
  | [], a => Memory.unlisted a
  | (b, v) :: rest, a => if a = b then v else Memory.byteAt rest a

/-- The read of one byte of the ROM: none beyond the last word, where the spec says no ROM exists (20_memory.md R28, R30). -/
def Memory.readByte (geo : Config.Geometry) (m : Memory) (a : Nat) : Option Byte :=
  if a < 4 * romWords geo then some (m.byteAt a) else none

/-- `MemRead(waddr, 1)` (20_memory.md R23): one word, from its four bytes. -/
def Memory.readWord (geo : Config.Geometry) (m : Memory) (w : Nat) : Option Word :=
  if w < romWords geo then
    some (wordOfBytes (m.byteAt (4 * w)) (m.byteAt (4 * w + 1)) (m.byteAt (4 * w + 2)) (m.byteAt (4 * w + 3)))
  else none

/-- `RomRow(g, l)`, that is `MemRead(raddr(g, l) * 4, 4)` (20_memory.md R24): word `k` of the row in lane `k`. -/
def Memory.readRow (geo : Config.Geometry) (m : Memory) (row : Nat) : Option Int4 :=
  match m.readWord geo (row * 4), m.readWord geo (row * 4 + 1), m.readWord geo (row * 4 + 2),
    m.readWord geo (row * 4 + 3) with
  | some w0, some w1, some w2, some w3 => some ⟨w0, w1, w2, w3⟩
  | _, _, _, _ => none

/-- The canonical form of the ROM's list: addresses strictly rising and inside the ROM, and no entry equal to what an
unlisted address reads as. -/
def Memory.wf (geo : Config.Geometry) : Memory → Bool
  | [] => true
  | (a, v) :: rest =>
    a < 4 * romWords geo && v != Memory.unlisted a && rest.all (fun c => a < c.1) && Memory.wf geo rest

/-- Whether nothing is listed: the ROM is the image `DV_IMAGE`, as 20_memory.md R32 (a) says it is at every time. -/
def romIntact (s : State) : Bool := s.rom.isEmpty

/-- The exposed constants, the block's only "control and status registers", hardwired and read-only (10_state.md R17,
40_dvtable.md R66). -/
def readConst (geo : Config.Geometry) (sel : BitVec 5) : Option Word :=
  match sel.toNat with
  | 0 => some (BitVec.ofNat 32 geo.numDimensions)
  | 1 => some (BitVec.ofNat 32 geo.numDimensionSets4D)
  | _ => none

/-- The outcome of an operation. -/
abbrev StepOutcome := Host.Outcome State Fault Refusal

/-- The state after a request is answered: it is no longer in flight, and the exchange is recorded. Nothing else changes
(60_exceptions.md R143, 70_reset_and_hazards.md R156, R157). -/
def complete (s : State) (r : Request) (rest : List Request) (resp : Response) : State :=
  { s with inFlight := rest, delivered := s.delivered ++ [⟨r, resp⟩] }

/-- Run an operation on the oldest request in flight. -/
def withRequest (s : State) (k : Request → List Request → StepOutcome) : StepOutcome :=
  match s.inFlight with
  | [] => .refused .noRequest
  | r :: rest => k r rest

/-- `result <- v` (00_scope.md R9): complete the request with status `OK`. -/
def succeed (s : State) (r : Request) (rest : List Request) (v : Int4) : StepOutcome :=
  .next (complete s r rest (.ok (pack v)))

/-- TAKING A FAULT, the block's "trap entry" (60_exceptions.md R143): the response carries the code and no result. No state
is saved, no mode changes, no control transfers, the ROM is unchanged, and the block goes on with the next request as if
this one had never been made. There is no return operation (R144). -/
def raise (s : State) (r : Request) (rest : List Request) (code : FaultCode) : StepOutcome :=
  .next (complete s r rest (.fault code))

/-- Go on with what was read from the ROM, or stop where the address is beyond the ROM. -/
def withRom {α : Type} (v : Option α) (k : α → StepOutcome) : StepOutcome :=
  match v with
  | none => .fault .romAddress
  | some x => k x

/-- Complete a request with an unspecified value: `n` words are drawn, and `make` builds the result from the position of
the first (44_sampling.md R92, 93_implementation_defined.md U1). -/
def completeDrawn (s : State) (r : Request) (rest : List Request) (n : Nat) (make : Nat → Int4) : State :=
  complete { s with draws := s.draws + n } r rest (.ok (pack (make s.draws)))

/-- The host presents a request on the port (30_encoding.md R35): it waits behind those in flight. -/
def State.present (s : State) (r : Request) : State := { s with inFlight := s.inFlight ++ [r] }

/-- Reset while the block runs (70_reset_and_hazards.md R150): every request in flight is dropped without a response; the
ROM is unaffected. It is the host's input, between steps (assumption 18). -/
def State.applyReset (s : State) : State := { s with inFlight := [] }

end Sys2Proof.Machine
end

