-- ==== Sys2Proof/Machine/Fold.lean ====
section
/-!
DEFINITION. The folds of the ScalarSampler and the VectorSampler (41_sobol_scalar.md R71 to R73, 42_sobol_vector.md R78),
in the closed form over the 16 levels (R72) that the machine uses and in SB's loop form.
-/
namespace Sys2Proof.Machine

open Config (Datapath Geometry)

/-- The index mask of the fold: only bits 31:16 take part (41_sobol_scalar.md R73). -/
def maskIndex (indexRev : Word) : Word := indexRev &&& 0xFFFF0000

/-- The dimension group, `d >> 2` (41_sobol_scalar.md R71). -/
def groupOf (d : Word) : Word := d >>> 2

/-- The lane of a dimension in its group, `d & 3` (41_sobol_scalar.md R71). -/
def laneOf (d : Word) : Fin 4 := ⟨d.toNat % 4, Nat.mod_lt _ (by decide)⟩

/-- The XOR of what the levels of the list hold where the index bit `31 - l` is 1 (41_sobol_scalar.md R72): every level is
read and its index bit selects it, as hardware does. -/
def xorSelected {α : Type} (xor : α → α → α) (zero : α) (read : Nat → Option α) (idx : Word) : List Nat → Option α
  | [] => some zero
  | l :: ls =>
    match xorSelected xor zero read idx ls, read l with
    | some acc, some w => some (if idx.getLsbD (31 - l) then xor w acc else acc)
    | _, _ => none

/-- SB's loop (41_sobol_scalar.md R71): while the masked index is not 0, read the level of its most significant 1 bit, XOR,
and clear that bit. The first argument bounds the passes; 16 are enough, one per bit of the mask. -/
def foldLoop {α : Type} (xor : α → α → α) (read : Nat → Option α) : Nat → Word → α → Option α
  | 0, _, acc => some acc
  | n + 1, idx, acc =>
    if idx = 0 then some acc
    else
      match read (clz32 idx) with
      | none => none
      | some w => foldLoop xor read n (idx &&& ~~~((1 : Word) <<< (31 - clz32 idx))) (xor acc w)

/-- The word of dimension `d` at level `l`: group `d >> 2`, lane `d & 3` (41_sobol_scalar.md R71). -/
def dimensionWord (geo : Geometry) (rom : Memory) (d : Word) (l : Nat) : Option Word :=
  rom.readWord geo (waddr (groupOf d).toNat l (laneOf d))

/-- `RomRow(g, l)` (42_sobol_vector.md R78). -/
def groupRow (geo : Geometry) (rom : Memory) (g : Word) (l : Nat) : Option Int4 := rom.readRow geo (raddr g.toNat l)

/-- `fold(index_rev, d)` in closed form (41_sobol_scalar.md R72; assumption 20). -/
def fold (geo : Geometry) (rom : Memory) (indexRev d : Word) : Option Word :=
  xorSelected (· ^^^ ·) 0 (dimensionWord geo rom d) (maskIndex indexRev) (List.range 16)

/-- `fold4(index_rev, g)` in closed form (42_sobol_vector.md R78; assumption 20). -/
def fold4 (geo : Geometry) (dp : Datapath) (rom : Memory) (indexRev g : Word) : Option Int4 :=
  xorSelected (i4Xor dp) (splat 0) (groupRow geo rom g) (maskIndex indexRev) (List.range 16)

/-- `fold(index_rev, d)` as SB's loop (41_sobol_scalar.md R71). -/
def foldByLoop (geo : Geometry) (rom : Memory) (indexRev d : Word) : Option Word :=
  foldLoop (· ^^^ ·) (dimensionWord geo rom d) 16 (maskIndex indexRev) 0

/-- `fold4(index_rev, g)` as SB's loop (42_sobol_vector.md R78). -/
def fold4ByLoop (geo : Geometry) (dp : Datapath) (rom : Memory) (indexRev g : Word) : Option Int4 :=
  foldLoop (i4Xor dp) (groupRow geo rom g) 16 (maskIndex indexRev) (splat 0)

end Sys2Proof.Machine
end

