-- ==== Sys2Proof/Machine/Scramble.lean ====
section
/-!
DEFINITION. The HashScrambler: the avalanche hash, the Owen scramble, and their 4-wide forms (43_hash_owen.md).
-/
namespace Sys2Proof.Machine

open Config (Constants Datapath)

/-- `mix` (43_hash_owen.md R82): three xor-shift rounds with two multiplies between them. -/
def mix (n : Word) : Word :=
  let n := n ^^^ (n >>> 16)
  let n := n * Config.c1
  let n := n ^^^ (n >>> 15)
  let n := n * Config.c2
  n ^^^ (n >>> 16)

/-- `hash` (43_hash_owen.md R83). -/
def hash (c : Constants) (n : Word) : Word := mix (n ^^^ c.kHashIn)

/-- `x ^ (x *32 m)`, steps 1, 4 and 5 of `owen`. -/
def xorMul (m x : Word) : Word := x ^^^ (x * m)

/-- `owen` (43_hash_owen.md R85): the five steps (assumption 14). -/
def owen (c : Constants) (x s : Word) : Word :=
  let x := xorMul c.owenM1 x
  let x := x + s
  let x := x * ((s >>> 16) ||| 1)
  let x := xorMul c.owenM2 x
  xorMul c.owenM3 x

/-- HASH4 as Int4 steps (43_hash_owen.md R88). -/
def hash4 (dp : Datapath) (c : Constants) (n : Int4) : Int4 :=
  let v := i4Xor dp n (splat c.kHashIn)
  let v := i4Xor dp v (i4Shr dp v 16)
  let v := i4Mul dp v (splat Config.c1)
  let v := i4Xor dp v (i4Shr dp v 15)
  let v := i4Mul dp v (splat Config.c2)
  i4Xor dp v (i4Shr dp v 16)

/-- OWEN4 as Int4 steps (43_hash_owen.md R89). -/
def owen4 (dp : Datapath) (c : Constants) (x s : Int4) : Int4 :=
  let x := i4Xor dp x (i4Mul dp x (splat c.owenM1))
  let x := i4Add dp x s
  let x := i4Mul dp x (i4Or dp (i4Shr dp s 16) (splat 1))
  let x := i4Xor dp x (i4Mul dp x (splat c.owenM2))
  i4Xor dp x (i4Mul dp x (splat c.owenM3))

end Sys2Proof.Machine
end

