-- ==== Sys2Proof/Machine/Sampling.lean ====
section
/-!
DEFINITION. The sampling pipelines of SAMPLE and SAMPLE4D for a sample index below 2^16 (44_sampling.md R99 to R101).
-/
namespace Sys2Proof.Machine

open Config (Constants Datapath Geometry)

/-- Step 2 of both pipelines: the shuffled index (44_sampling.md R99, R101). -/
def shuffledIndex (c : Constants) (sampleIndex seed : Word) : Word :=
  owen c (rev32 sampleIndex) (hash c (seed ^^^ c.kShuffle))

/-- `scramble_key` (44_sampling.md R100): group, seed product and lane constant, combined by XOR. -/
def scrambleKey (c : Constants) (g : Word) (k : Fin 4) (seed : Word) : Word :=
  g ^^^ (seed * c.kSeedMul) ^^^ c.kLane.lane k

/-- Steps 4 to 6 of SAMPLE after the fold (44_sampling.md R99). -/
def scrambleAndConvert (c : Constants) (sobol dimension seed : Word) : Word :=
  tonorm (rev32 (owen c sobol (hash c (scrambleKey c (groupOf dimension) (laneOf dimension) seed))))

/-- SAMPLE's steps 2 to 6 (44_sampling.md R99). -/
def sample (geo : Geometry) (c : Constants) (rom : Memory) (sampleIndex dimension seed : Word) : Option Word :=
  (fold geo rom (shuffledIndex c sampleIndex seed) dimension).map fun sobol => scrambleAndConvert c sobol dimension seed

/-- `key4` of SAMPLE4D (44_sampling.md R101, step 4). -/
def scrambleKey4 (dp : Datapath) (c : Constants) (dimensionSet seed : Word) : Int4 :=
  i4Xor dp (i4Xor dp (splat dimensionSet) (splat (seed * c.kSeedMul))) c.kLane

/-- Steps 4 to 6 of SAMPLE4D after the fold (44_sampling.md R101). -/
def scrambleAndConvert4 (dp : Datapath) (c : Constants) (sobol4 : Int4) (dimensionSet seed : Word) : Int4 :=
  i4Tonorm dp (i4Rev dp (owen4 dp c sobol4 (hash4 dp c (scrambleKey4 dp c dimensionSet seed))))

/-- SAMPLE4D's steps 2 to 6 (44_sampling.md R101). -/
def sample4d (geo : Geometry) (dp : Datapath) (c : Constants) (rom : Memory) (sampleIndex dimensionSet seed : Word) :
    Option Int4 :=
  (fold4 geo dp rom (shuffledIndex c sampleIndex seed) dimensionSet).map fun sobol4 =>
    scrambleAndConvert4 dp c sobol4 dimensionSet seed

end Sys2Proof.Machine
end

