-- ==== Sys2Proof/Machine/Scalar.lean ====
section
/-!
DEFINITION. The meanings of the constant read-out and of the scalar operations: RDCONST, REV32, HASH, OWEN, SOBOL, TONORM,
SAMPLE.
-/
namespace Sys2Proof.Machine

/-- RDCONST (40_dvtable.md R66) on a block of a given geometry. A selector of 2 or more is not RDCONST but an illegal command
(30_encoding.md R44). -/
def rdconstOn (geo : Config.Geometry) (sel : BitVec 5) (s : State) : StepOutcome :=
  withRequest s fun r rest =>
    match readConst geo sel with
    | some w => succeed s r rest (scalarResult w)
    | none => raise s r rest .illegalCommand

/-- RDCONST (40_dvtable.md R66). -/
def execRdconst (sel : BitVec 5) (s : State) : StepOutcome := rdconstOn Config.geometry sel s

/-- REV32 (44_sampling.md R93). -/
def execRev32 (s : State) : StepOutcome :=
  withRequest s fun r rest => succeed s r rest (scalarResult (rev32 (scalar1 r)))

/-- HASH (43_hash_owen.md R84). -/
def execHash (s : State) : StepOutcome :=
  withRequest s fun r rest => succeed s r rest (scalarResult (hash Config.constants (scalar1 r)))

/-- OWEN (43_hash_owen.md R87). -/
def execOwen (s : State) : StepOutcome :=
  withRequest s fun r rest => succeed s r rest (scalarResult (owen Config.constants (scalar1 r) (scalar2 r)))

/-- SOBOL (41_sobol_scalar.md R70) on a block of a given geometry: the range check, then the fold. -/
def sobolOn (geo : Config.Geometry) (s : State) : StepOutcome :=
  withRequest s fun r rest =>
    if dimensionInRange geo (scalar2 r) then
      withRom (fold geo s.rom (scalar1 r) (scalar2 r)) fun v => succeed s r rest (scalarResult v)
    else raise s r rest .dimensionRange

/-- SOBOL (41_sobol_scalar.md R70). -/
def execSobol (s : State) : StepOutcome := sobolOn Config.geometry s

/-- TONORM (44_sampling.md R96). -/
def execTonorm (s : State) : StepOutcome :=
  withRequest s fun r rest => succeed s r rest (scalarResult (tonorm (scalar1 r)))

/-- SAMPLE with `sample_index >= 2^16` (44_sampling.md R92): INDEX_RANGE in the VALIDATING configuration, else `OK` with one
unspecified in-range value in lane 0. -/
def sampleIndexOutOfRange (check : Config.IndexCheck) (s : State) (r : Request) (rest : List Request) : State :=
  match check with
  | .validating => complete s r rest (.fault .indexRange)
  | .fast => completeDrawn s r rest 1 fun n => scalarResult (tonorm (Config.freeWord n))

/-- SAMPLE (44_sampling.md R99) on a block of a given geometry: the dimension check first (60_exceptions.md R142), then the
index check, then the pipeline. -/
def sampleOn (geo : Config.Geometry) (s : State) : StepOutcome :=
  withRequest s fun r rest =>
    if dimensionInRange geo (scalar2 r) then
      if indexInRange (scalar1 r) then
        withRom (sample geo Config.constants s.rom (scalar1 r) (scalar2 r) (scalar3 r)) fun v =>
          succeed s r rest (scalarResult v)
      else .next (sampleIndexOutOfRange Config.indexCheck s r rest)
    else raise s r rest .dimensionRange

/-- SAMPLE (44_sampling.md R99). -/
def execSample (s : State) : StepOutcome := sampleOn Config.geometry s

end Sys2Proof.Machine
end

