-- ==== Sys2Proof/Machine/Vector.lean ====
section
/-!
DEFINITION. The meanings of the ten Int4 operations, each through the multiplexer with the block's straps (45_int4.md R122).
-/
namespace Sys2Proof.Machine

/-- I4.ADD (45_int4.md R107). -/
def execI4Add (s : State) : StepOutcome :=
  withRequest s fun r rest => succeed s r rest (i4Add Config.datapath (operandA r) (operandB r))

/-- I4.SUB (45_int4.md R108). -/
def execI4Sub (s : State) : StepOutcome :=
  withRequest s fun r rest => succeed s r rest (i4Sub Config.datapath (operandA r) (operandB r))

/-- I4.MUL (45_int4.md R109). -/
def execI4Mul (s : State) : StepOutcome :=
  withRequest s fun r rest => succeed s r rest (i4Mul Config.datapath (operandA r) (operandB r))

/-- I4.AND (45_int4.md R110). -/
def execI4And (s : State) : StepOutcome :=
  withRequest s fun r rest => succeed s r rest (i4And Config.datapath (operandA r) (operandB r))

/-- I4.OR (45_int4.md R111). -/
def execI4Or (s : State) : StepOutcome :=
  withRequest s fun r rest => succeed s r rest (i4Or Config.datapath (operandA r) (operandB r))

/-- I4.XOR (45_int4.md R113). -/
def execI4Xor (s : State) : StepOutcome :=
  withRequest s fun r rest => succeed s r rest (i4Xor Config.datapath (operandA r) (operandB r))

/-- I4.SHL (45_int4.md R114). -/
def execI4Shl (sh : BitVec 5) (s : State) : StepOutcome :=
  withRequest s fun r rest => succeed s r rest (i4Shl Config.datapath (operandA r) sh)

/-- I4.SHR (45_int4.md R115). -/
def execI4Shr (sh : BitVec 5) (s : State) : StepOutcome :=
  withRequest s fun r rest => succeed s r rest (i4Shr Config.datapath (operandA r) sh)

/-- I4.REV (45_int4.md R116). -/
def execI4Rev (s : State) : StepOutcome :=
  withRequest s fun r rest => succeed s r rest (i4Rev Config.datapath (operandA r))

/-- I4.TONORM (45_int4.md R118). -/
def execI4Tonorm (s : State) : StepOutcome :=
  withRequest s fun r rest => succeed s r rest (i4Tonorm Config.datapath (operandA r))

end Sys2Proof.Machine
end

