-- ==== Sys2Proof/Machine/Wide.lean ====
section
/-!
DEFINITION. The meanings of the 4-wide counterparts: HASH4, OWEN4, SOBOL4, SAMPLE4D.
-/
namespace Sys2Proof.Machine

/-- HASH4 (43_hash_owen.md R88). -/
def execHash4 (s : State) : StepOutcome :=
  withRequest s fun r rest => succeed s r rest (hash4 Config.datapath Config.constants (operandA r))

/-- OWEN4 (43_hash_owen.md R89). -/
def execOwen4 (s : State) : StepOutcome :=
  withRequest s fun r rest => succeed s r rest (owen4 Config.datapath Config.constants (operandA r) (operandB r))

/-- SOBOL4 (42_sobol_vector.md R77) on a block of a given geometry: the range check, then the 4-lane fold. -/
def sobol4On (geo : Config.Geometry) (s : State) : StepOutcome :=
  withRequest s fun r rest =>
    if dimensionSetInRange geo (scalar2 r) then
      withRom (fold4 geo Config.datapath s.rom (scalar1 r) (scalar2 r)) fun v => succeed s r rest v
    else raise s r rest .dimensionSetRange

/-- SOBOL4 (42_sobol_vector.md R77). -/
def execSobol4 (s : State) : StepOutcome := sobol4On Config.geometry s

/-- The four unspecified in-range values of SAMPLE4D, each lane its own draw (44_sampling.md R92). -/
def drawnLanes (n : Nat) : Int4 :=
  mapLanes tonorm ⟨Config.freeWord n, Config.freeWord (n + 1), Config.freeWord (n + 2), Config.freeWord (n + 3)⟩

/-- SAMPLE4D with `sample_index >= 2^16` (44_sampling.md R92): INDEX_RANGE in the VALIDATING configuration, else `OK` with
four unspecified in-range values. -/
def sample4dIndexOutOfRange (check : Config.IndexCheck) (s : State) (r : Request) (rest : List Request) : State :=
  match check with
  | .validating => complete s r rest (.fault .indexRange)
  | .fast => completeDrawn s r rest 4 drawnLanes

/-- SAMPLE4D (44_sampling.md R101) on a block of a given geometry: the set check first (60_exceptions.md R142), then the index
check, then the pipeline. -/
def sample4dOn (geo : Config.Geometry) (s : State) : StepOutcome :=
  withRequest s fun r rest =>
    if dimensionSetInRange geo (scalar2 r) then
      if indexInRange (scalar1 r) then
        withRom (sample4d geo Config.datapath Config.constants s.rom (scalar1 r) (scalar2 r) (scalar3 r)) fun v =>
          succeed s r rest v
      else .next (sample4dIndexOutOfRange Config.indexCheck s r rest)
    else raise s r rest .dimensionSetRange

/-- SAMPLE4D (44_sampling.md R101). -/
def execSample4d (s : State) : StepOutcome := sample4dOn Config.geometry s

end Sys2Proof.Machine
end

