-- ==== Sys2Proof/Machine/Dispatch.lean ====
section
/-!
DEFINITION. The dispatcher: one arm per row of the opcode map (30_encoding.md R43).
-/
namespace Sys2Proof.Machine

/-- Run one operation on the oldest request in flight. -/
def exec (i : Instr) (s : State) : Host.Outcome State Fault Refusal :=
  match i with
  | .rdconst sel => Sys2Proof.Machine.execRdconst sel s
  | .rev32 => Sys2Proof.Machine.execRev32 s
  | .hash => Sys2Proof.Machine.execHash s
  | .owen => Sys2Proof.Machine.execOwen s
  | .sobol => Sys2Proof.Machine.execSobol s
  | .tonorm => Sys2Proof.Machine.execTonorm s
  | .sample => Sys2Proof.Machine.execSample s
  | .i4Add => Sys2Proof.Machine.execI4Add s
  | .i4Sub => Sys2Proof.Machine.execI4Sub s
  | .i4Mul => Sys2Proof.Machine.execI4Mul s
  | .i4And => Sys2Proof.Machine.execI4And s
  | .i4Or => Sys2Proof.Machine.execI4Or s
  | .i4Xor => Sys2Proof.Machine.execI4Xor s
  | .i4Shl sh => Sys2Proof.Machine.execI4Shl sh s
  | .i4Shr sh => Sys2Proof.Machine.execI4Shr sh s
  | .i4Rev => Sys2Proof.Machine.execI4Rev s
  | .i4Tonorm => Sys2Proof.Machine.execI4Tonorm s
  | .hash4 => Sys2Proof.Machine.execHash4 s
  | .owen4 => Sys2Proof.Machine.execOwen4 s
  | .sobol4 => Sys2Proof.Machine.execSobol4 s
  | .sample4d => Sys2Proof.Machine.execSample4d s

end Sys2Proof.Machine
end

