-- ==== Sys2Proof/Machine/Step.lean ====
section
/-!
DEFINITION. One step of the block: answer the oldest request in flight.
-/
namespace Sys2Proof.Machine

/-- One step. An idle block stays as it is (assumption 10). Else the oldest request's command word is decoded
(30_encoding.md R37) and the operation runs; a word that selects no row takes ILLEGAL_COMMAND, and `A` and `B` are not
examined (60_exceptions.md R138). -/
def step (s : State) : Host.Outcome State Fault Refusal :=
  match s.inFlight with
  | [] => .next s
  | r :: rest =>
    match decode r.cmd with
    | .ok i => exec i s
    | .error _ => raise s r rest .illegalCommand

/-- The requests in flight with the oldest one's command word set; when none is in flight, a request with that word and zero
operands (assumption 1). -/
def withCommand (cmd : Word) : List Request → List Request
  | [] => [⟨cmd, 0, 0⟩]
  | r :: rest => { r with cmd := cmd } :: rest

/-- `s` with the `nbits`-bit table word `w` as the command word of the request the next step answers (assumption 1). -/
def State.withFetchWord (s : State) (nbits w : Nat) : State :=
  { s with inFlight := withCommand (BitVec.ofNat 32 (w % 2 ^ nbits)) s.inFlight }

end Sys2Proof.Machine
end

