-- ==== Sys2Proof/Machine/Listing.lean ====
section
/-!
DEFINITION. The request that a line of the listing syntax stands for (30_encoding.md R45, with the operand places of R39 and
R40). Names of earlier results (`%t`) are the host's: by the time a request is made they are values.
-/
namespace Sys2Proof.Machine

/-- An operand value of a listing line: a `u32` or an `Int4` literal. -/
inductive ListingOperand where
  | word (w : Word)
  | vector (v : Int4)
  deriving DecidableEq, Repr

/-- The request with a command word and two `Int4` operand fields. -/
def requestOf (i : Instr) (a b : Int4) : Request := ⟨encode i, pack a, pack b⟩

/-- An `Int4` field that is not used, all zero in a listing's encoding. -/
def unusedField : Int4 := splat 0

/-- The request of a listing line: the mnemonic's instruction (with `#sh` in it) and the operands in the order of R39 and
R40; a scalar operand leaves the other lanes of its field 0. None where the operands are not those the mnemonic takes. -/
def listingRequest (i : Instr) (operands : List ListingOperand) : Option Request :=
  match i, operands with
  | .rdconst sel, [] => some (requestOf (.rdconst sel) unusedField unusedField)
  | .rev32, [.word x] => some (requestOf .rev32 (scalarResult x) unusedField)
  | .hash, [.word n] => some (requestOf .hash (scalarResult n) unusedField)
  | .owen, [.word n, .word s] => some (requestOf .owen (scalarResult n) (scalarResult s))
  | .sobol, [.word x, .word d] => some (requestOf .sobol (scalarResult x) (scalarResult d))
  | .tonorm, [.word n] => some (requestOf .tonorm (scalarResult n) unusedField)
  | .sample, [.word n, .word d, .word seed] => some (requestOf .sample (scalarResult n) ⟨d, seed, 0, 0⟩)
  | .i4Add, [.vector a, .vector b] => some (requestOf .i4Add a b)
  | .i4Sub, [.vector a, .vector b] => some (requestOf .i4Sub a b)
  | .i4Mul, [.vector a, .vector b] => some (requestOf .i4Mul a b)
  | .i4And, [.vector a, .vector b] => some (requestOf .i4And a b)
  | .i4Or, [.vector a, .vector b] => some (requestOf .i4Or a b)
  | .i4Xor, [.vector a, .vector b] => some (requestOf .i4Xor a b)
  | .i4Shl sh, [.vector a] => some (requestOf (.i4Shl sh) a unusedField)
  | .i4Shr sh, [.vector a] => some (requestOf (.i4Shr sh) a unusedField)
  | .i4Rev, [.vector a] => some (requestOf .i4Rev a unusedField)
  | .i4Tonorm, [.vector a] => some (requestOf .i4Tonorm a unusedField)
  | .hash4, [.vector n] => some (requestOf .hash4 n unusedField)
  | .owen4, [.vector n, .vector s] => some (requestOf .owen4 n s)
  | .sobol4, [.word x, .word g] => some (requestOf .sobol4 (scalarResult x) (scalarResult g))
  | .sample4d, [.word n, .word g, .word seed] => some (requestOf .sample4d (scalarResult n) ⟨g, seed, 0, 0⟩)
  | _, _ => none

end Sys2Proof.Machine
end

