-- ==== Sys2Proof/Safety.lean ====
section
/-!
DEFINITION. What a good run is (70_reset_and_hazards.md R162), in the terms the statements use.
-/
namespace Sys2Proof

open Machine

/-- Whether an exchange is a fault response. -/
def exchangeFaulted (e : Exchange) : Bool :=
  match e.response with
  | .ok _ => false
  | .fault _ => true

/-- "A run goes wrong exactly when some response is a fault" (70_reset_and_hazards.md R162). -/
def wentWrong (s : State) : Bool := s.delivered.any exchangeFaulted

/-- Whether an operation's operands are in the ranges that keep it from faulting in every configuration (60_exceptions.md
R139 to R141); the operations of R147 have no range. -/
def operandsInRange (i : Instr) (r : Request) : Bool :=
  match i with
  | .rdconst _ => true
  | .rev32 => true
  | .hash => true
  | .owen => true
  | .sobol => dimensionInRange Config.geometry (scalar2 r)
  | .tonorm => true
  | .sample => dimensionInRange Config.geometry (scalar2 r) && indexInRange (scalar1 r)
  | .i4Add => true
  | .i4Sub => true
  | .i4Mul => true
  | .i4And => true
  | .i4Or => true
  | .i4Xor => true
  | .i4Shl _ => true
  | .i4Shr _ => true
  | .i4Rev => true
  | .i4Tonorm => true
  | .hash4 => true
  | .owen4 => true
  | .sobol4 => dimensionSetInRange Config.geometry (scalar2 r)
  | .sample4d => dimensionSetInRange Config.geometry (scalar2 r) && indexInRange (scalar1 r)

/-- A request that faults in no configuration: a legal command word (60_exceptions.md R138) with operands in range. -/
def requestInRange (r : Request) : Bool :=
  match decode r.cmd with
  | .ok i => operandsInRange i r
  | .error _ => false

/-- Whether the spec leaves an operation's response open: SAMPLE or SAMPLE4D with its dimension or set in range and
`sample_index >= 2^16` (70_reset_and_hazards.md R156's one exception, 44_sampling.md R92). -/
def responseOpen (i : Instr) (r : Request) : Bool :=
  match i with
  | .rdconst _ => false
  | .rev32 => false
  | .hash => false
  | .owen => false
  | .sobol => false
  | .tonorm => false
  | .sample => dimensionInRange Config.geometry (scalar2 r) && !indexInRange (scalar1 r)
  | .i4Add => false
  | .i4Sub => false
  | .i4Mul => false
  | .i4And => false
  | .i4Or => false
  | .i4Xor => false
  | .i4Shl _ => false
  | .i4Shr _ => false
  | .i4Rev => false
  | .i4Tonorm => false
  | .hash4 => false
  | .owen4 => false
  | .sobol4 => false
  | .sample4d => dimensionSetInRange Config.geometry (scalar2 r) && !indexInRange (scalar1 r)

/-- Whether two requests agree on the operand lanes an operation uses (30_encoding.md R39, R40). -/
def usedOperandsAgree (i : Instr) (r r' : Request) : Bool :=
  match i with
  | .rdconst _ => true
  | .rev32 => scalar1 r == scalar1 r'
  | .hash => scalar1 r == scalar1 r'
  | .owen => scalar1 r == scalar1 r' && scalar2 r == scalar2 r'
  | .sobol => scalar1 r == scalar1 r' && scalar2 r == scalar2 r'
  | .tonorm => scalar1 r == scalar1 r'
  | .sample => scalar1 r == scalar1 r' && scalar2 r == scalar2 r' && scalar3 r == scalar3 r'
  | .i4Add => operandA r == operandA r' && operandB r == operandB r'
  | .i4Sub => operandA r == operandA r' && operandB r == operandB r'
  | .i4Mul => operandA r == operandA r' && operandB r == operandB r'
  | .i4And => operandA r == operandA r' && operandB r == operandB r'
  | .i4Or => operandA r == operandA r' && operandB r == operandB r'
  | .i4Xor => operandA r == operandA r' && operandB r == operandB r'
  | .i4Shl _ => operandA r == operandA r'
  | .i4Shr _ => operandA r == operandA r'
  | .i4Rev => operandA r == operandA r'
  | .i4Tonorm => operandA r == operandA r'
  | .hash4 => operandA r == operandA r'
  | .owen4 => operandA r == operandA r' && operandB r == operandB r'
  | .sobol4 => scalar1 r == scalar1 r' && scalar2 r == scalar2 r'
  | .sample4d => scalar1 r == scalar1 r' && scalar2 r == scalar2 r' && scalar3 r == scalar3 r'

/-- Whether a pattern is a binary32 value `k * 2^-23` with `0 <= k < 2^23`, sign bit 0: an output of the block (44_sampling.md
R103). In units of `2^-149`, `2^-23` is `2^126` and 1.0 is `2^149`. -/
def unitFloat (w : Word) : Bool :=
  !w.getLsbD 31 && f32Units w % 2 ^ 126 == 0 && decide (0 ≤ f32Units w) && decide (f32Units w < 2 ^ 149)

/-- Whether lanes 1 to 3 are 0, as in the result of a scalar operation (30_encoding.md R39). -/
def upperLanesZero (v : Int4) : Bool := v.l1 == 0 && v.l2 == 0 && v.l3 == 0

/-- Whether all four lanes are outputs in [0, 1). -/
def unitLanes (v : Int4) : Bool := unitFloat v.l0 && unitFloat v.l1 && unitFloat v.l2 && unitFloat v.l3

/-- The shape of an operation's result: a scalar result stands in lane 0 (30_encoding.md R39), a float result is an output in
[0, 1) (44_sampling.md R103). -/
def resultConforms (i : Instr) (v : Int4) : Bool :=
  match i with
  | .rdconst _ => upperLanesZero v
  | .rev32 => upperLanesZero v
  | .hash => upperLanesZero v
  | .owen => upperLanesZero v
  | .sobol => upperLanesZero v
  | .tonorm => upperLanesZero v && unitFloat v.l0
  | .sample => upperLanesZero v && unitFloat v.l0
  | .i4Add => true
  | .i4Sub => true
  | .i4Mul => true
  | .i4And => true
  | .i4Or => true
  | .i4Xor => true
  | .i4Shl _ => true
  | .i4Shr _ => true
  | .i4Rev => true
  | .i4Tonorm => unitLanes v
  | .hash4 => true
  | .owen4 => true
  | .sobol4 => true
  | .sample4d => unitLanes v

/-- The faults an operation can report (60_exceptions.md R137, R147). -/
def faultConforms (i : Instr) (code : FaultCode) : Bool :=
  match i with
  | .rdconst _ => false
  | .rev32 => false
  | .hash => false
  | .owen => false
  | .sobol => code == .dimensionRange
  | .tonorm => false
  | .sample => code == .dimensionRange || code == .indexRange
  | .i4Add => false
  | .i4Sub => false
  | .i4Mul => false
  | .i4And => false
  | .i4Or => false
  | .i4Xor => false
  | .i4Shl _ => false
  | .i4Shr _ => false
  | .i4Rev => false
  | .i4Tonorm => false
  | .hash4 => false
  | .owen4 => false
  | .sobol4 => code == .dimensionSetRange
  | .sample4d => code == .dimensionSetRange || code == .indexRange

/-- Whether a response is one the spec allows for its request: an illegal command word is answered by ILLEGAL_COMMAND and
nothing else is (60_exceptions.md R138), a result has its operation's shape, a fault is one its operation can report. -/
def exchangeConforms (e : Exchange) : Bool :=
  match decode e.request.cmd, e.response with
  | .error _, .ok _ => false
  | .error _, .fault code => code == .illegalCommand
  | .ok i, .ok v => resultConforms i (unpack v)
  | .ok i, .fault code => faultConforms i code

/-- The machine's invariant: the ROM's list is in canonical form, and every exchange so far conforms. -/
def machineInvariant (s : State) : Bool := Memory.wf Config.geometry s.rom && s.delivered.all exchangeConforms

end Sys2Proof
end

