-- ==== Sys2Proof/Certificates/Slice0/Obligations.lean ====
section
/-!
DEFINITION. The statements for the provers. Each says which rule of spec/ it formalises. In all of them `r` is the oldest
request in flight and `rest` the ones behind it; `complete s r rest resp` is `s` with `r` answered by `resp`: only `inFlight`
and `delivered` change (`ExecChangesNothingElse` states that frame in full).
-/

open Sys2Proof Sys2Proof.Machine
open Sys2Proof.Config (geometry)

/-! ## The command word and the port -/

/-- Every well-formed instruction decodes from its own command word (30_encoding.md, the command word and the opcode map). -/
def Obligations.DecodeOfEncodeIsTheInstruction : Prop :=
  ∀ i : Instr, i.wf = true → decode (encode i) = .ok i

/-- A legal command word is the encoding of the one instruction it decodes to, so no bit of a word is dropped (30_encoding.md,
the command word and the opcode map). -/
def Obligations.EncodeOfDecodeIsTheWord : Prop :=
  ∀ (cmd : Word) (i : Instr), decode cmd = .ok i → i.wf = true ∧ encode i = cmd

/-- No command word selects two rows of the opcode map (30_encoding.md, the opcode map: "The rows are disjoint"). -/
def Obligations.NoWordSelectsTwoRows : Prop :=
  ∀ cmd : Word, opcodeTable.Pairwise fun p q => ¬(p.selects cmd = true ∧ q.selects cmd = true)

/-- Exactly 84 command words are legal (95_test_vectors.md V1: 2 of RDCONST, 32 of each shift, 18 others). -/
def Obligations.ExactlyEightyFourLegalWords : Prop :=
  ∃ legal : List Word, legal.Nodup ∧ legal.length = 84 ∧ ∀ cmd : Word, (∃ i, decode cmd = .ok i) ↔ cmd ∈ legal

/-- 30_encoding.md R44, 60_exceptions.md R138: which command words are illegal, and that each is answered by ILLEGAL_COMMAND
(status 01), whatever `A` and `B` hold; every other word decodes. -/
def Obligations.IllegalCommandsAreAnsweredSo : Prop :=
  ∀ (s : State) (r : Request) (rest : List Request), s.inFlight = r :: rest →
    if opField r.cmd ∉ ([0x01, 0x10, 0x11, 0x12, 0x13, 0x14, 0x15, 0x20, 0x21, 0x22, 0x23, 0x24, 0x25, 0x26, 0x27, 0x28,
          0x29, 0x31, 0x32, 0x33, 0x35] : List (BitVec 8)) ∨
        rsvField r.cmd ≠ 0 ∨
        (shField r.cmd ≠ 0 ∧ opField r.cmd ≠ 0x01 ∧ opField r.cmd ≠ 0x26 ∧ opField r.cmd ≠ 0x27) ∨
        (opField r.cmd = 0x01 ∧ 2 ≤ (shField r.cmd).toNat) then
      step s = .next (complete s r rest (.fault .illegalCommand)) ∧
        responseStatus (.fault .illegalCommand) = 0x01
    else ∃ i, decode r.cmd = .ok i

/-- A few command words written out from the opcode map decode to what they stand for (30_encoding.md, the opcode map;
45_int4.md R114's example word). -/
def Obligations.SampleCommandWordsReadRight : Prop :=
  decode 0x00000101 = .ok (.rdconst 1) ∧ decode 0x00000013 = .ok .sobol ∧ decode 0x00000015 = .ok .sample ∧
    decode 0x00000022 = .ok .i4Mul ∧ decode 0x00000926 = .ok (.i4Shl 9) ∧ decode 0x00001F27 = .ok (.i4Shr 31) ∧
    decode 0x00000033 = .ok .sobol4 ∧ decode 0x00000035 = .ok .sample4d

/-- 20_memory.md R26: lane `k` of an `Int4` carried as 128 bits is bits `32k+31 : 32k`, and packing loses nothing. -/
def Obligations.LanesStandInPortBits : Prop :=
  (∀ (v : Wide) (k : Fin 4), (unpack v).lane k = v.extractLsb' (32 * k.val) 32) ∧
    (∀ v : Wide, pack (unpack v) = v) ∧ ∀ x : Int4, unpack (pack x) = x

/-! ## Steps and runs -/

/-- A step runs the decoded instruction: the oldest request's command word decodes to `i`, and the step is `exec i`, which
answers that request; nothing is added around it. -/
def Obligations.StepRunsTheDecodedInstruction : Prop :=
  ∀ (s : State) (r : Request) (rest : List Request) (i : Instr), s.inFlight = r :: rest → decode r.cmd = .ok i →
    step s = exec i s

/-- A step with a request in flight answers exactly that one, with one response, and changes neither the ROM nor what was
delivered before; it never stops. A step of an idle block changes nothing (the model's choice, assumption 10). -/
def Obligations.StepAnswersTheOldestRequest : Prop :=
  (∀ (s : State) (r : Request) (rest : List Request), s.inFlight = r :: rest →
    ∃ (resp : Response) (n : Nat),
      step s = .next { rom := s.rom, inFlight := rest, delivered := s.delivered ++ [⟨r, resp⟩], draws := s.draws + n }) ∧
    ∀ s : State, s.inFlight = [] → step s = .next s

/-- Every request in flight is answered, one response each, in the order of the requests (30_encoding.md section 1,
70_reset_and_hazards.md section 3): as many steps as there are requests deliver them all. -/
def Obligations.RunAnswersEveryRequestInOrder : Prop :=
  ∀ s : State, ∃ t : State, Host.Core.run Sys2Proof.core s.inFlight.length s = .next t ∧ t.inFlight = [] ∧
    t.rom = s.rom ∧ t.delivered.map Exchange.request = s.delivered.map Exchange.request ++ s.inFlight

/-- Independence of requests (70_reset_and_hazards.md section 3, an inference the spec marks as its own). Where the spec does
not leave the response open, it is a function of the request and the ROM alone: two states with the same oldest request and
the same ROM give the same response. Requests commute: two runs whose requests are the same up to order, with the same ROM and
no open response, deliver the same exchanges up to order. -/
def Obligations.RequestsAreIndependent : Prop :=
  (∀ (s s' : State) (r : Request) (rest rest' : List Request), s.inFlight = r :: rest → s'.inFlight = r :: rest' →
    s.rom = s'.rom → (∀ i, decode r.cmd = .ok i → responseOpen i r = false) →
    ∃ resp : Response, step s = .next (complete s r rest resp) ∧ step s' = .next (complete s' r rest' resp)) ∧
    ∀ s s' : State, s.inFlight.Perm s'.inFlight → s.rom = s'.rom →
      (∀ r ∈ s.inFlight, ∀ i, decode r.cmd = .ok i → responseOpen i r = false) →
      ∃ (t t' : State) (e e' : List Exchange),
        Host.Core.run Sys2Proof.core s.inFlight.length s = .next t ∧
        Host.Core.run Sys2Proof.core s'.inFlight.length s' = .next t' ∧
        t.delivered = s.delivered ++ e ∧ t'.delivered = s'.delivered ++ e' ∧ e.Perm e'

/-- Operand lanes an operation does not use are ignored (30_encoding.md R39, R40): for two requests that agree on the lanes the
operation uses, on the same ROM, every operation gives the same response, whatever the other lanes hold. -/
def Obligations.UnusedOperandLanesAreIgnored : Prop :=
  ∀ (i : Instr) (s s' : State) (r r' : Request) (rest rest' : List Request), s.inFlight = r :: rest →
    s'.inFlight = r' :: rest' → s.rom = s'.rom → usedOperandsAgree i r r' = true → responseOpen i r = false →
    ∃ resp : Response, exec i s = .next (complete s r rest resp) ∧ exec i s' = .next (complete s' r' rest' resp)

/-- The status of every response (60_exceptions.md R137 to R142, R147): which requests fault, with which code, in which
priority, for the block's INDEX_CHECK; no other code is ever produced. -/
def Obligations.ResponseStatusIsExactly : Prop :=
  ∀ (s : State) (r : Request) (rest : List Request), s.inFlight = r :: rest →
    ∃ (t : State) (resp : Response), step s = .next t ∧ t.delivered = s.delivered ++ [⟨r, resp⟩] ∧
      responseStatus resp =
        match decode r.cmd with
        | .error _ => 0x01
        | .ok .sobol => if (scalar2 r).toNat < 256 then 0x00 else 0x02
        | .ok .sobol4 => if (scalar2 r).toNat < 64 then 0x00 else 0x03
        | .ok .sample =>
          if (scalar2 r).toNat < 256 then
            if (scalar1 r).toNat < 65536 then 0x00
            else if Config.indexCheck = .validating then 0x04 else 0x00
          else 0x02
        | .ok .sample4d =>
          if (scalar2 r).toNat < 64 then
            if (scalar1 r).toNat < 65536 then 0x00
            else if Config.indexCheck = .validating then 0x04 else 0x00
          else 0x03
        | .ok _ => 0x00

/-- A fault leaves nothing behind (60_exceptions.md R143, R144): the state differs only in the request answered and the
exchange recorded, and the next step goes as if the faulting request had never been made. -/
def Obligations.FaultLeavesNothingBehind : Prop :=
  ∀ (s : State) (r : Request) (rest : List Request) (code : FaultCode) (t : State), s.inFlight = r :: rest →
    step s = .next t → t.delivered = s.delivered ++ [⟨r, .fault code⟩] →
    t = complete s r rest (.fault code) ∧
      ∃ (u u' : State) (e : List Exchange), step { s with inFlight := rest } = .next u ∧ step t = .next u' ∧
        u.delivered = s.delivered ++ e ∧ u'.delivered = s.delivered ++ ⟨r, .fault code⟩ :: e ∧
        u'.inFlight = u.inFlight ∧ u'.rom = u.rom ∧ u'.draws = u.draws

/-- A run whose requests are all legal and in range does not go wrong, in every configuration (60_exceptions.md R137 to R141,
R147; 70_reset_and_hazards.md section 5). -/
def Obligations.InRangeRunsNeverGoWrong : Prop :=
  ∀ (s : State) (n : Nat), wentWrong s = false → (∀ r ∈ s.inFlight, requestInRange r = true) →
    ∃ t : State, Host.Core.run Sys2Proof.core n s = .next t ∧ wentWrong t = false

/-- Every step keeps the machine's invariant: the ROM's list is canonical, and every response conforms to its request (result
shape, output range, possible faults). -/
def Obligations.StepKeepsTheInvariant : Prop :=
  ∀ s t : State, machineInvariant s = true → step s = .next t → machineInvariant t = true

/-- The machine's invariant holds right after reset. -/
def Obligations.ResetMeetsTheInvariant : Prop :=
  machineInvariant State.reset = true

/-- Nothing writes the ROM (40_dvtable.md R68): no run and no reset changes a ROM word, so every read of it returns
`DV_IMAGE[g][l][k]` at any time, along every run from a state whose ROM is intact. -/
def Obligations.RomReadsTheImageForAllTime : Prop :=
  (∀ (s t : State) (n : Nat), Host.Core.run Sys2Proof.core n s = .next t → t.rom = s.rom) ∧
    (∀ s : State, s.applyReset.rom = s.rom) ∧
    ∀ (s t : State) (n : Nat), romIntact s = true → Host.Core.run Sys2Proof.core n s = .next t →
      ∀ g < 64, ∀ l < 16, ∀ k < 4, t.rom.readWord geometry (waddr g l k) = some (dvImage g l k)

/-- What reset leaves (10_state.md R19, 70_reset_and_hazards.md R150): no request in flight, every ROM word at its image
value, dimension 0 the identity pattern, the two constants 256 and 64. -/
def Obligations.ResetLeavesAnIdleBlock : Prop :=
  State.reset.inFlight = [] ∧ romIntact State.reset = true ∧
    (∀ g < 64, ∀ l < 16, ∀ k < 4, State.reset.rom.readWord geometry (waddr g l k) = some (dvImage g l k)) ∧
    (∀ l < 16, State.reset.rom.readWord geometry (waddr 0 l 0) = some ((1 : Word) <<< l)) ∧
    readConst geometry 0 = some 0x00000100 ∧ readConst geometry 1 = some 0x00000040

/-- Reset drops every request in flight without a response and leaves the ROM alone; the first response after it answers the
first request after it (70_reset_and_hazards.md R150). -/
def Obligations.ResetDropsRequestsInFlight : Prop :=
  ∀ (s : State) (r : Request),
    s.applyReset.inFlight = [] ∧ s.applyReset.rom = s.rom ∧ s.applyReset.delivered = s.delivered ∧
      (romIntact s = true →
        ∀ g < 64, ∀ l < 16, ∀ k < 4, s.applyReset.rom.readWord geometry (waddr g l k) = some (dvImage g l k)) ∧
      ∃ (t : State) (resp : Response), step (s.applyReset.present r) = .next t ∧ t.inFlight = [] ∧
        t.delivered = s.delivered ++ [⟨r, resp⟩]

/-- The frame of all 21 operations: a next state has the same ROM, byte by byte; one request, the oldest, is answered; what
was delivered before stays; and no unspecified value is drawn except where the response is open (20_memory.md section 2,
60_exceptions.md section 3, 70_reset_and_hazards.md section 3). -/
def Obligations.ExecChangesNothingElse : Prop :=
  ∀ (i : Instr) (s t : State), exec i s = .next t →
    t.rom = s.rom ∧ (∀ a : Nat, t.rom.readByte geometry a = s.rom.readByte geometry a) ∧
      ∃ (r : Request) (rest : List Request) (resp : Response), s.inFlight = r :: rest ∧ t.inFlight = rest ∧
        t.delivered = s.delivered ++ [⟨r, resp⟩] ∧ (responseOpen i r = false → t.draws = s.draws)

/-! ## What each operation gives -/

/-- RDCONST (40_dvtable.md R66): the words 00000001 and 00000101 are its two selectors, which give 256 and 64; a word with a
selector of 2 or more does not decode as RDCONST and is an illegal command. -/
def Obligations.RdconstGivesTheConstants : Prop :=
  decode 0x00000001 = .ok (.rdconst 0) ∧ decode 0x00000101 = .ok (.rdconst 1) ∧
    (∀ sel : BitVec 5, 2 ≤ sel.toNat → decode (commandWord 0x01 sel) = .error (.selectorRange sel)) ∧
    ∀ (s : State) (r : Request) (rest : List Request), s.inFlight = r :: rest →
      exec (.rdconst 0) s = .next (complete s r rest (.ok 0x00000000000000000000000000000100)) ∧
        exec (.rdconst 1) s = .next (complete s r rest (.ok 0x00000000000000000000000000000040)) ∧
        (2 ≤ (shField r.cmd).toNat → opField r.cmd = 0x01 → step s = .next (complete s r rest (.fault .illegalCommand)))

/-- REV32 (44_sampling.md R93, R94): bit `j` of the result lane is bit `31 - j` of `A.0`. -/
def Obligations.Rev32ReversesTheBits : Prop :=
  decode 0x00000010 = .ok .rev32 ∧
    ∀ (s : State) (r : Request) (rest : List Request), s.inFlight = r :: rest →
      ∃ w : Word, exec .rev32 s = .next (complete s r rest (.ok (pack ⟨w, 0, 0, 0⟩))) ∧
        ∀ j < 32, w.getLsbD j = (scalar1 r).getLsbD (31 - j)

/-- HASH (43_hash_owen.md R82 to R84): the five steps of `mix` on `A.0 ^ K_HASH_IN`. -/
def Obligations.HashGivesTheFiveMixSteps : Prop :=
  decode 0x00000011 = .ok .hash ∧
    ∀ (s : State) (r : Request) (rest : List Request), s.inFlight = r :: rest →
      ∃ n1 n2 n3 n4 n5 n6 : Word,
        n1 = scalar1 r ^^^ Config.constants.kHashIn ∧ n2 = n1 ^^^ (n1 >>> 16) ∧ n3 = n2 * 0x7feb352d ∧
        n4 = n3 ^^^ (n3 >>> 15) ∧ n5 = n4 * 0x846ca68b ∧ n6 = n5 ^^^ (n5 >>> 16) ∧
        exec .hash s = .next (complete s r rest (.ok (pack ⟨n6, 0, 0, 0⟩)))

/-- OWEN (43_hash_owen.md section 2): the five steps on `A.0` and `B.0`. The step list is the spec's own, from general
knowledge (its R85; assumption 14). -/
def Obligations.OwenGivesTheFiveSteps : Prop :=
  decode 0x00000012 = .ok .owen ∧
    ∀ (s : State) (r : Request) (rest : List Request), s.inFlight = r :: rest →
      ∃ x1 x2 x3 x4 x5 : Word,
        x1 = scalar1 r ^^^ (scalar1 r * Config.constants.owenM1) ∧ x2 = x1 + scalar2 r ∧
        x3 = x2 * ((scalar2 r >>> 16) ||| 1) ∧ x4 = x3 ^^^ (x3 * Config.constants.owenM2) ∧
        x5 = x4 ^^^ (x4 * Config.constants.owenM3) ∧
        exec .owen s = .next (complete s r rest (.ok (pack ⟨x5, 0, 0, 0⟩)))

/-- SOBOL (41_sobol_scalar.md section on SOBOL, in the closed form the spec derives as its R72): for a dimension in range,
comparing the whole operand, the XOR, over the levels `l` whose index bit `31 - l` is 1, of the ROM words of group `d >> 2`
and lane `d & 3`; else DIMENSION_RANGE. -/
def Obligations.SobolFoldsTheSelectedLevels : Prop :=
  decode 0x00000013 = .ok .sobol ∧
    ∀ (s : State) (r : Request) (rest : List Request), s.inFlight = r :: rest →
      if (scalar2 r).toNat < 256 then
        ∃ word : Nat → Word,
          (∀ l < 16, s.rom.readWord geometry (waddr ((scalar2 r).toNat / 4) l ((scalar2 r).toNat % 4)) = some (word l)) ∧
          exec .sobol s = .next (complete s r rest (.ok (pack
            ⟨(List.range 16).foldl (fun acc l => if (scalar1 r).getLsbD (31 - l) then acc ^^^ word l else acc) 0, 0, 0, 0⟩)))
      else exec .sobol s = .next (complete s r rest (.fault .dimensionRange))

/-- SOBOL4 (42_sobol_vector.md, in the closed form the spec derives in its R78): for a dimension set in range, comparing the
whole operand, lane `k` is the XOR, over the levels `l` whose index bit `31 - l` is 1, of the ROM words of that group and lane
`k`; else DIMENSION_SET_RANGE. -/
def Obligations.Sobol4FoldsTheSelectedRows : Prop :=
  decode 0x00000033 = .ok .sobol4 ∧
    ∀ (s : State) (r : Request) (rest : List Request), s.inFlight = r :: rest →
      if (scalar2 r).toNat < 64 then
        ∃ (word : Nat → Fin 4 → Word) (v : Int4),
          (∀ l < 16, ∀ k : Fin 4, s.rom.readWord geometry (waddr (scalar2 r).toNat l k) = some (word l k)) ∧
          (∀ k : Fin 4, v.lane k =
            (List.range 16).foldl (fun acc l => if (scalar1 r).getLsbD (31 - l) then acc ^^^ word l k else acc) 0) ∧
          exec .sobol4 s = .next (complete s r rest (.ok (pack v)))
      else exec .sobol4 s = .next (complete s r rest (.fault .dimensionSetRange))

/-- The range faults (60_exceptions.md R139, R140): SOBOL and SAMPLE report DIMENSION_RANGE exactly when `B.0 >= 256`, SOBOL4
and SAMPLE4D report DIMENSION_SET_RANGE exactly when `B.0 >= 64`, comparing the whole operand, in every configuration. -/
def Obligations.RangeFaultsExactlyOutOfRange : Prop :=
  ∀ (s : State) (r : Request) (rest : List Request), s.inFlight = r :: rest →
    (exec .sobol s = .next (complete s r rest (.fault .dimensionRange)) ↔ 256 ≤ (scalar2 r).toNat) ∧
    (exec .sample s = .next (complete s r rest (.fault .dimensionRange)) ↔ 256 ≤ (scalar2 r).toNat) ∧
    (exec .sobol4 s = .next (complete s r rest (.fault .dimensionSetRange)) ↔ 64 ≤ (scalar2 r).toNat) ∧
    (exec .sample4d s = .next (complete s r rest (.fault .dimensionSetRange)) ↔ 64 ≤ (scalar2 r).toNat)

/-- TONORM (44_sampling.md R96, R97): the result is the binary32 pattern, sign bit 0, of exactly `(n >> 9) * 2^-23`; in units of
`2^-149` that is `(n >> 9) * 2^126`. -/
def Obligations.TonormIsExactlyTheFraction : Prop :=
  decode 0x00000014 = .ok .tonorm ∧
    ∀ (s : State) (r : Request) (rest : List Request), s.inFlight = r :: rest →
      ∃ w : Word, exec .tonorm s = .next (complete s r rest (.ok (pack ⟨w, 0, 0, 0⟩))) ∧ w.getLsbD 31 = false ∧
        f32Units w = ((scalar1 r).toNat / 2 ^ 9 : Nat) * 2 ^ 126

/-- SAMPLE (44_sampling.md section 4) with its dimension in range and `sample_index < 2^16`: steps 2 to 6. -/
def Obligations.SampleRunsThePipeline : Prop :=
  ∀ (s : State) (r : Request) (rest : List Request), s.inFlight = r :: rest → (scalar2 r).toNat < 256 →
    (scalar1 r).toNat < 65536 →
    ∃ shuffled sobol key owened : Word,
      shuffled = owen Config.constants (rev32 (scalar1 r))
        (hash Config.constants (scalar3 r ^^^ Config.constants.kShuffle)) ∧
      fold geometry s.rom shuffled (scalar2 r) = some sobol ∧
      key = (scalar2 r >>> 2) ^^^ (scalar3 r * Config.constants.kSeedMul) ^^^
        Config.constants.kLane.lane (laneOf (scalar2 r)) ∧
      owened = owen Config.constants sobol (hash Config.constants key) ∧
      exec .sample s = .next (complete s r rest (.ok (pack ⟨tonorm (rev32 owened), 0, 0, 0⟩)))

/-- 44_sampling.md R92: SAMPLE and SAMPLE4D with the dimension or set in range and `sample_index >= 2^16`. VALIDATING: the fault
INDEX_RANGE. FAST: `OK`, each float lane some in-range pattern `tonorm y`, its own `y` for each lane. -/
def Obligations.IndexOutOfRangeIsFaultOrDraw : Prop :=
  ∀ (s : State) (r : Request) (rest : List Request), s.inFlight = r :: rest → 65536 ≤ (scalar1 r).toNat →
    ((scalar2 r).toNat < 256 →
      ∃ t : State, exec .sample s = .next t ∧ t.rom = s.rom ∧ t.inFlight = rest ∧
        match Config.indexCheck with
        | .validating => t.delivered = s.delivered ++ [⟨r, .fault .indexRange⟩]
        | .fast => ∃ y : Word, t.delivered = s.delivered ++ [⟨r, .ok (pack ⟨tonorm y, 0, 0, 0⟩)⟩]) ∧
    ((scalar2 r).toNat < 64 →
      ∃ t : State, exec .sample4d s = .next t ∧ t.rom = s.rom ∧ t.inFlight = rest ∧
        match Config.indexCheck with
        | .validating => t.delivered = s.delivered ++ [⟨r, .fault .indexRange⟩]
        | .fast => ∃ y0 y1 y2 y3 : Word,
          t.delivered = s.delivered ++ [⟨r, .ok (pack ⟨tonorm y0, tonorm y1, tonorm y2, tonorm y3⟩)⟩])

/-- I4.ADD, I4.SUB, I4.MUL (45_int4.md R107 to R109): each lane modulo 2^32, lanes independent. -/
def Obligations.Int4ArithmeticWrapsPerLane : Prop :=
  decode 0x00000020 = .ok .i4Add ∧ decode 0x00000021 = .ok .i4Sub ∧ decode 0x00000022 = .ok .i4Mul ∧
    ∀ (s : State) (r : Request) (rest : List Request), s.inFlight = r :: rest →
      (∃ v : Int4, exec .i4Add s = .next (complete s r rest (.ok (pack v))) ∧
        ∀ k, (v.lane k).toNat = (((operandA r).lane k).toNat + ((operandB r).lane k).toNat) % 2 ^ 32) ∧
      (∃ v : Int4, exec .i4Sub s = .next (complete s r rest (.ok (pack v))) ∧
        ∀ k, ((v.lane k).toNat : Int) = (((operandA r).lane k).toNat - ((operandB r).lane k).toNat : Int) % 2 ^ 32) ∧
      (∃ v : Int4, exec .i4Mul s = .next (complete s r rest (.ok (pack v))) ∧
        ∀ k, (v.lane k).toNat = (((operandA r).lane k).toNat * ((operandB r).lane k).toNat) % 2 ^ 32)

/-- I4.AND, I4.OR, I4.XOR (45_int4.md R110, R111, R113): bit by bit in each lane. -/
def Obligations.Int4BitwiseIsBitByBit : Prop :=
  decode 0x00000023 = .ok .i4And ∧ decode 0x00000024 = .ok .i4Or ∧ decode 0x00000025 = .ok .i4Xor ∧
    ∀ (s : State) (r : Request) (rest : List Request), s.inFlight = r :: rest →
      (∃ v : Int4, exec .i4And s = .next (complete s r rest (.ok (pack v))) ∧
        ∀ k j, (v.lane k).getLsbD j = (((operandA r).lane k).getLsbD j && ((operandB r).lane k).getLsbD j)) ∧
      (∃ v : Int4, exec .i4Or s = .next (complete s r rest (.ok (pack v))) ∧
        ∀ k j, (v.lane k).getLsbD j = (((operandA r).lane k).getLsbD j || ((operandB r).lane k).getLsbD j)) ∧
      (∃ v : Int4, exec .i4Xor s = .next (complete s r rest (.ok (pack v))) ∧
        ∀ k j, (v.lane k).getLsbD j = (((operandA r).lane k).getLsbD j ^^ ((operandB r).lane k).getLsbD j))

/-- I4.SHL, I4.SHR (45_int4.md R114, R115) for every amount 0 to 31: one logical shift for all lanes. -/
def Obligations.Int4ShiftsAreLogical : Prop :=
  (∀ sh : BitVec 5, decode (0x00000026 ||| (sh.setWidth 32 <<< 8)) = .ok (.i4Shl sh) ∧
    decode (0x00000027 ||| (sh.setWidth 32 <<< 8)) = .ok (.i4Shr sh)) ∧
    ∀ (s : State) (r : Request) (rest : List Request) (sh : BitVec 5), s.inFlight = r :: rest →
      (∃ v : Int4, exec (.i4Shl sh) s = .next (complete s r rest (.ok (pack v))) ∧
        ∀ k, (v.lane k).toNat = ((operandA r).lane k).toNat * 2 ^ sh.toNat % 2 ^ 32) ∧
      (∃ v : Int4, exec (.i4Shr sh) s = .next (complete s r rest (.ok (pack v))) ∧
        ∀ k, (v.lane k).toNat = ((operandA r).lane k).toNat / 2 ^ sh.toNat)

/-- I4.REV, I4.TONORM (45_int4.md R116, R118): each lane reversed in place; each lane's exact fraction as TONORM gives it. -/
def Obligations.Int4RevAndTonormPerLane : Prop :=
  decode 0x00000028 = .ok .i4Rev ∧ decode 0x00000029 = .ok .i4Tonorm ∧
    ∀ (s : State) (r : Request) (rest : List Request), s.inFlight = r :: rest →
      (∃ v : Int4, exec .i4Rev s = .next (complete s r rest (.ok (pack v))) ∧
        ∀ k, ∀ j < 32, (v.lane k).getLsbD j = ((operandA r).lane k).getLsbD (31 - j)) ∧
      (∃ v : Int4, exec .i4Tonorm s = .next (complete s r rest (.ok (pack v))) ∧
        ∀ k, (v.lane k).getLsbD 31 = false ∧ f32Units (v.lane k) = (((operandA r).lane k).toNat / 2 ^ 9 : Nat) * 2 ^ 126)

/-- HASH4 and OWEN4 are their scalar forms lane by lane (43_hash_owen.md R88 to R90): lane `k` of the 4-wide result is what
HASH or OWEN gives for a request with lane `k` of the operands in lane 0. -/
def Obligations.WideScramblerIsScalarPerLane : Prop :=
  decode 0x00000031 = .ok .hash4 ∧ decode 0x00000032 = .ok .owen4 ∧
    ∀ (s : State) (r : Request) (rest : List Request), s.inFlight = r :: rest →
      ∃ h o : Int4, exec .hash4 s = .next (complete s r rest (.ok (pack h))) ∧
        exec .owen4 s = .next (complete s r rest (.ok (pack o))) ∧
        ∀ (k : Fin 4) (s' : State) (r' : Request) (rest' : List Request), s'.inFlight = r' :: rest' →
          scalar1 r' = (operandA r).lane k → scalar2 r' = (operandB r).lane k →
          exec .hash s' = .next (complete s' r' rest' (.ok (pack ⟨h.lane k, 0, 0, 0⟩))) ∧
            exec .owen s' = .next (complete s' r' rest' (.ok (pack ⟨o.lane k, 0, 0, 0⟩)))

/-- 42_sobol_vector.md R77, R79: SOBOL4 for a set in range completes, and lane `k` of its result is what SOBOL gives for the
same index and dimension `4g + k`. -/
def Obligations.Sobol4EqualsFourSobols : Prop :=
  ∀ (s : State) (r : Request) (rest : List Request), s.inFlight = r :: rest → (scalar2 r).toNat < 64 →
    ∃ v : Int4, exec .sobol4 s = .next (complete s r rest (.ok (pack v))) ∧
      ∀ (k : Fin 4) (s' : State) (r' : Request) (rest' : List Request), s'.inFlight = r' :: rest' → s'.rom = s.rom →
        scalar1 r' = scalar1 r → (scalar2 r').toNat = 4 * (scalar2 r).toNat + k.val →
        exec .sobol s' = .next (complete s' r' rest' (.ok (pack ⟨v.lane k, 0, 0, 0⟩)))

/-- Fault equivalence (42_sobol_vector.md, an inference the spec marks as its own, its R80): for a set `g < 2^30`, SOBOL4
faults exactly when each of the four SOBOLs of dimensions `4g + k` does; for `g >= 2^30` SOBOL4 faults. -/
def Obligations.Sobol4FaultsWithItsSobols : Prop :=
  ∀ (s : State) (r : Request) (rest : List Request), s.inFlight = r :: rest →
    if (scalar2 r).toNat < 2 ^ 30 then
      ∀ (k : Fin 4) (s' : State) (r' : Request) (rest' : List Request), s'.inFlight = r' :: rest' →
        (scalar2 r').toNat = 4 * (scalar2 r).toNat + k.val →
        (exec .sobol4 s = .next (complete s r rest (.fault .dimensionSetRange)) ↔
          exec .sobol s' = .next (complete s' r' rest' (.fault .dimensionRange)))
    else exec .sobol4 s = .next (complete s r rest (.fault .dimensionSetRange))

/-- The primary oracle (44_sampling.md R102): SAMPLE4D for a set in range and `sample_index < 2^16` completes, and lane `k` of
its result is what SAMPLE gives for the same index and seed and dimension `4d + k`. -/
def Obligations.Sample4dEqualsFourSamples : Prop :=
  ∀ (s : State) (r : Request) (rest : List Request), s.inFlight = r :: rest → (scalar2 r).toNat < 64 →
    (scalar1 r).toNat < 65536 →
    ∃ v : Int4, exec .sample4d s = .next (complete s r rest (.ok (pack v))) ∧
      ∀ (k : Fin 4) (s' : State) (r' : Request) (rest' : List Request), s'.inFlight = r' :: rest' → s'.rom = s.rom →
        scalar1 r' = scalar1 r → (scalar2 r').toNat = 4 * (scalar2 r).toNat + k.val → scalar3 r' = scalar3 r →
        exec .sample s' = .next (complete s' r' rest' (.ok (pack ⟨v.lane k, 0, 0, 0⟩)))

/-! ## Laws of the block's functions -/

/-- Laws of bit reversal (44_sampling.md section 2; all but the first an inference the spec marks as its own, its R95):
`rev32` is an involution, distributes over the bitwise operations, turns shifts around, and equals the five-stage cascade of
the Native datapath. -/
def Obligations.Rev32Laws : Prop :=
  (∀ x : Word, rev32 (rev32 x) = x) ∧
    (∀ x y : Word, rev32 (x ^^^ y) = rev32 x ^^^ rev32 y ∧ rev32 (x &&& y) = rev32 x &&& rev32 y ∧
      rev32 (x ||| y) = rev32 x ||| rev32 y ∧ rev32 (~~~x) = ~~~(rev32 x)) ∧
    (∀ (x : Word) (k : Nat), k < 32 → rev32 (x <<< k) = rev32 x >>> k ∧ rev32 (x >>> k) = rev32 x <<< k) ∧
    ∀ (a : Int4) (k : Fin 4), (nativeRev a).lane k = rev32 (a.lane k)

/-- The mixing function (43_hash_owen.md section 1; its bijectivity is an inference the spec marks as its own, its R82): the
five steps of `mix`; it maps 0 to 0 and 1 to 688990C0, and is a bijection on `u32`. -/
def Obligations.MixIsABijection : Prop :=
  (∀ n n1 n2 n3 n4 : Word, n1 = n ^^^ (n >>> 16) → n2 = n1 * 0x7feb352d → n3 = n2 ^^^ (n2 >>> 15) → n4 = n3 * 0x846ca68b →
    mix n = n4 ^^^ (n4 >>> 16)) ∧
    mix 0 = 0 ∧ mix 1 = 0x688990C0 ∧ Function.Bijective mix

/-- The hash (43_hash_owen.md section 1; its consequences are an inference the spec marks as its own, its R83): it is `mix`
after the input XOR; zero does not map to zero, `K_HASH_IN` does, and `hash` is a bijection, for every choice of the constants
that meets their constraints. -/
def Obligations.HashIsABijectionMissingZeroAtZero : Prop :=
  ∀ c : Config.Constants, (∀ n, hash c n = mix (n ^^^ c.kHashIn)) ∧ hash c 0 = mix c.kHashIn ∧ hash c 0 ≠ 0 ∧
    hash c c.kHashIn = 0 ∧ Function.Bijective (hash c)

/-- Properties of the Owen scramble (43_hash_owen.md section 2, an inference the spec marks as its own, its R86): for every
choice of even constants, low bits of the result depend on the same low bits of the operand and on nothing above, `owen` is a
bijection on all 32 bits and on every number of low bits, and maps 0 to 0 under scramble 0. -/
def Obligations.OwenPermutesLowBits : Prop :=
  ∀ (c : Config.Constants) (s : Word),
    (∀ (j : Nat) (x y : Word), j < 32 →
      (x.toNat % 2 ^ (j + 1) = y.toNat % 2 ^ (j + 1) ↔ (owen c x s).toNat % 2 ^ (j + 1) = (owen c y s).toNat % 2 ^ (j + 1))) ∧
      Function.Bijective (fun x => owen c x s) ∧ owen c 0 0 = 0

/-- Two requests with the same group and lane and different seeds have different hashed keys (44_sampling.md section 4, the
scramble key; an inference the spec marks as its own). -/
def Obligations.DifferentSeedsGiveDifferentHashedKeys : Prop :=
  ∀ (c : Config.Constants) (g : Word) (k : Fin 4) (seed seed' : Word), seed ≠ seed' →
    hash c (scrambleKey c g k seed) ≠ hash c (scrambleKey c g k seed')

/-- `tonorm` without floating point is the binary32 subtraction it stands for, in range for every `n` (44_sampling.md section
3, an inference the spec marks as its own, its R98). -/
def Obligations.TonormIsTheFloatSubtraction : Prop :=
  ∀ n : Word, tonorm n = tonormFloat n ∧ unitFloat (tonorm n) = true

/-- 45_int4.md R123: no result depends on BACKEND or MUL_IMPL: each of the ten Int4 operations, and each 4-wide function built
from them, is the same under any two settings of the straps. -/
def Obligations.BackendsAgreeBitForBit : Prop :=
  ∀ dp dp' : Config.Datapath,
    (∀ a b : Int4, i4Add dp a b = i4Add dp' a b ∧ i4Sub dp a b = i4Sub dp' a b ∧ i4Mul dp a b = i4Mul dp' a b ∧
      i4And dp a b = i4And dp' a b ∧ i4Or dp a b = i4Or dp' a b ∧ i4Xor dp a b = i4Xor dp' a b ∧
      i4Rev dp a = i4Rev dp' a ∧ i4Tonorm dp a = i4Tonorm dp' a) ∧
    (∀ (a : Int4) (sh : BitVec 5), i4Shl dp a sh = i4Shl dp' a sh ∧ i4Shr dp a sh = i4Shr dp' a sh) ∧
    ∀ (geo : Config.Geometry) (c : Config.Constants) (rom : Memory) (a b : Int4) (x g seed : Word),
      hash4 dp c a = hash4 dp' c a ∧ owen4 dp c a b = owen4 dp' c a b ∧ fold4 geo dp rom x g = fold4 geo dp' rom x g ∧
        sample4d geo dp c rom x g seed = sample4d geo dp' c rom x g seed

/-- Linear ROM addresses (20_memory.md R22) and their range (R28), for every geometry: the word and row address of `(g, l, k)`,
their bit fields, and that every address a fold presents for a dimension in range is inside the ROM and reads. On this hardware
the ROM has 4096 words in 1024 rows. -/
def Obligations.FoldAddressesAreInRange : Prop :=
  romWords geometry = 4096 ∧ geometry.numDimensions * 16 = 4096 ∧
    geometry.numDimensionSets4D * 16 = 1024 ∧
    ∀ geo : Config.Geometry, romWords geo = geo.numDimensions * 16 ∧
      (∀ g l k : Nat, g < geo.numDimensionSets4D → l < 16 → k < 4 →
        waddr g l k = (g * 16 + l) * 4 + k ∧ raddr g l = g * 16 + l ∧ waddr g l k = raddr g l * 4 + k ∧
          waddr g l k < geo.numDimensions * 16 ∧ raddr g l < geo.numDimensionSets4D * 16 ∧ waddr g l k / 64 = g ∧
          waddr g l k / 4 % 16 = l ∧ waddr g l k % 4 = k) ∧
      ∀ (d : Word) (l : Nat), d.toNat < geo.numDimensions → l < 16 →
        waddr (groupOf d).toNat l (laneOf d) = (d.toNat / 4) * 64 + l * 4 + d.toNat % 4 ∧
          waddr (groupOf d).toNat l (laneOf d) < geo.numDimensions * 16 ∧ ∀ rom : Memory, ∃ w, dimensionWord geo rom d l = some w

/-- 20_memory.md R24: a row read returns the four words of its row, what four word reads of the same row return, word `k` in
lane `k`. -/
def Obligations.RowReadIsFourWordReads : Prop :=
  ∀ (geo : Config.Geometry) (rom : Memory) (g l : Nat), g < geo.numDimensionSets4D → l < 16 →
    ∃ v : Int4, rom.readRow geo (raddr g l) = some v ∧ ∀ k : Fin 4, rom.readWord geo (waddr g l k) = some (v.lane k)

/-- SB's loop and the closed form over all 16 levels give the same fold, on both paths (41_sobol_scalar.md and
42_sobol_vector.md; the closed form is an inference the spec marks as its own, its R72). -/
def Obligations.LoopFoldEqualsClosedForm : Prop :=
  ∀ geo : Config.Geometry,
    (∀ (rom : Memory) (x d : Word), d.toNat < geo.numDimensions → foldByLoop geo rom x d = fold geo rom x d) ∧
      ∀ (dp : Config.Datapath) (rom : Memory) (x g : Word), g.toNat < geo.numDimensionSets4D →
        fold4ByLoop geo dp rom x g = fold4 geo dp rom x g

/-- The fold ignores index bits 15:0 and is linear over XOR, for any ROM contents (41_sobol_scalar.md R73 and
its R74 (a), an inference the spec marks as its own). -/
def Obligations.FoldMasksAndIsLinear : Prop :=
  ∀ (geo : Config.Geometry) (rom : Memory) (x y d : Word), d.toNat < geo.numDimensions →
    fold geo rom x d = fold geo rom (x &&& 0xFFFF0000) d ∧ fold geo rom 0 d = some 0 ∧
      ∃ v w : Word, fold geo rom x d = some v ∧ fold geo rom y d = some w ∧ fold geo rom (x ^^^ y) d = some (v ^^^ w)

/-- A one-hot index reads out one ROM word or row (40_dvtable.md section 2, an inference the spec marks
as its own, its R67), and an index bit below the mask reads nothing
(41_sobol_scalar.md R74 (b), another). -/
def Obligations.OneHotIndexReadsTheRom : Prop :=
  ∀ (s : State) (r : Request) (rest : List Request) (p : Nat), s.inFlight = r :: rest → p < 32 →
    scalar1 r = (1 : Word) <<< p →
    ((scalar2 r).toNat < 256 →
      if 16 ≤ p then
        ∃ w : Word, s.rom.readWord geometry (waddr ((scalar2 r).toNat / 4) (31 - p) ((scalar2 r).toNat % 4)) = some w ∧
          exec .sobol s = .next (complete s r rest (.ok (pack ⟨w, 0, 0, 0⟩)))
      else exec .sobol s = .next (complete s r rest (.ok 0))) ∧
    ((scalar2 r).toNat < 64 →
      if 16 ≤ p then
        ∃ v : Int4, s.rom.readRow geometry (raddr (scalar2 r).toNat (31 - p)) = some v ∧
          exec .sobol4 s = .next (complete s r rest (.ok (pack v)))
      else exec .sobol4 s = .next (complete s r rest (.ok 0)))

/-- Dimension 0 (40_dvtable.md section 1; the consequence is an inference the spec marks as its own, in its R57): dimension
0's stored words are `1 << l`, and SOBOL of dimension 0 on an intact ROM returns `rev32(index_rev & 0xFFFF0000)`: for a sample
index below 2^16, the index itself. -/
def Obligations.DimensionZeroIsTheIdentity : Prop :=
  (∀ l < 16, dvImage 0 l 0 = (1 : Word) <<< l ∧ rev32 (dvImage 0 l 0) = (1 : Word) <<< (31 - l)) ∧
    (∀ (s : State) (r : Request) (rest : List Request), romIntact s = true → s.inFlight = r :: rest → scalar2 r = 0 →
      exec .sobol s = .next (complete s r rest (.ok (pack ⟨rev32 (scalar1 r &&& 0xFFFF0000), 0, 0, 0⟩)))) ∧
    ∀ n : Word, n.toNat < 65536 → fold geometry [] (rev32 n) 0 = some n

/-- Every stored word has its level's bit set and no bit above it, for every valid record and so for the whole image
(40_dvtable.md section 1, properties (a) and (b) of its R62, an inference the spec marks as its own). -/
def Obligations.StoredWordsAreTriangular : Prop :=
  (∀ (rec : Config.DirectionRecord) (l : Nat), l < 16 →
    2 ^ l ≤ (storedOfRecord 32 rec l).toNat ∧ (storedOfRecord 32 rec l).toNat < 2 ^ (l + 1)) ∧
    ∀ g l k : Nat, g < 64 → l < 16 → k < 4 → 2 ^ l ≤ (dvImage g l k).toNat ∧ (dvImage g l k).toNat < 2 ^ (l + 1)

/-- The stored words do not depend on the width the generation works on, from 16 bits up (40_dvtable.md section 1, property
(c) of its R62, an inference the spec marks as its own). -/
def Obligations.StoredWordsIndependentOfWidth : Prop :=
  ∀ (rec : Config.DirectionRecord) (width l : Nat), 16 ≤ width → l < 16 →
    storedOfRecord width rec l = storedOfRecord 32 rec l

/-- On the image, a fold is below 2^16, and its bit `j` depends only on the levels from `j` up
(41_sobol_scalar.md R74 (c) and (d), inferences the spec marks as its own). -/
def Obligations.FoldIsTriangular : Prop :=
  ∀ (d x y : Word) (j : Nat), d.toNat < 256 → j < 16 → (∀ l, j ≤ l → l < 16 → x.getLsbD (31 - l) = y.getLsbD (31 - l)) →
    ∃ v w : Word, fold geometry [] x d = some v ∧ fold geometry [] y d = some w ∧ v.toNat < 65536 ∧
      v.getLsbD j = w.getLsbD j

/-- Each dimension visits every 16-bit value exactly once over the indices below 2^16 (40_dvtable.md section 1, property (d) of
its R62, an inference the spec marks as its own). -/
def Obligations.EachDimensionIsABijection : Prop :=
  ∀ d : Word, d.toNat < 256 → ∀ y < 65536, ∃ n : Word,
    (n.toNat < 65536 ∧ (fold geometry [] (rev32 n) d).map BitVec.toNat = some y) ∧
    ∀ n' : Word, n'.toNat < 65536 → (fold geometry [] (rev32 n') d).map BitVec.toNat = some y → n' = n

/-- Stratification (44_sampling.md section 4, R104 (d), an inference the spec marks as its own): for every dimension and seed,
each aligned block of `2^j` consecutive sample indices puts exactly one sample in each interval `[i / 2^j, (i+1) / 2^j)`. In
units of `2^-149` the interval's index is the value divided by `2^(149 - j)`. -/
def Obligations.SamplesAreStratified : Prop :=
  ∀ (c : Config.Constants) (d seed : Word) (j block i : Nat), d.toNat < 256 → j ≤ 16 → block < 2 ^ (16 - j) → i < 2 ^ j →
    ∃ n : Word, (n.toNat / 2 ^ j = block ∧
        ∃ w, sample geometry c [] n d seed = some w ∧ f32Units w / 2 ^ (149 - j) = i) ∧
      ∀ n' : Word, n'.toNat / 2 ^ j = block →
        (∃ w, sample geometry c [] n' d seed = some w ∧ f32Units w / 2 ^ (149 - j) = i) → n' = n

/-! ## Other parameters and straps -/

/-- Conformance of the backends (45_int4.md section 5). Any two settings of BACKEND and MUL_IMPL agree bit for bit on the ten Int4
operations: on all of R124's boundary lane values (zero, all-ones, single high bit) at the boundary shift amounts 0 and 31, which
are an inference the spec marks as its own in R124; and, as R123 says, on every other input. -/
def Obligations.ConformanceSuitePasses : Prop :=
  boundaryLanes = [0x00000000, 0xFFFFFFFF, 0x80000000] ∧ boundaryShifts = [0, 31] ∧
    (∀ x ∈ boundaryLanes, ∀ y ∈ boundaryLanes, (splat x, splat y) ∈ boundaryOperands) ∧
    ∀ dp dp' : Config.Datapath, boundaryConformance dp dp' = true ∧
      ∀ (a b : Int4) (sh : BitVec 5), backendsAgreeOn dp dp' a b sh = true

/-- Any number of dimensions. The default (256 dimensions in 64 sets), the constraint and the quotient are 00_scope.md R6's. The
other clauses read the rules of the operations (R66, R70, R77, R92, R99, R101, R139 to R141) for other values of the parameters,
as the model does: on a block of any geometry RDCONST gives its two numbers; SOBOL, SAMPLE, SOBOL4 and SAMPLE4D complete for every
dimension or set below them and report the range fault for every other; and the samples with an index of 2^16 or more give
INDEX_RANGE or an in-range draw. That RDCONST gives a number of 2^32 or more modulo 2^32 is the model's choice (assumption 15). -/
def Obligations.EveryNumberOfDimensions : Prop :=
  geometry.numDimensions = 256 ∧ geometry.numDimensionSets4D = 64 ∧
    ∀ geo : Config.Geometry, geo.numDimensions % 4 = 0 ∧ 4 ≤ geo.numDimensions ∧
      geo.numDimensionSets4D = geo.numDimensions / 4 ∧ geo.numDimensions = 4 * geo.numDimensionSets4D ∧
      ∀ (s : State) (r : Request) (rest : List Request), s.inFlight = r :: rest →
        rdconstOn geo 0 s = .next (complete s r rest (.ok (pack ⟨BitVec.ofNat 32 geo.numDimensions, 0, 0, 0⟩))) ∧
        rdconstOn geo 1 s = .next (complete s r rest (.ok (pack ⟨BitVec.ofNat 32 geo.numDimensionSets4D, 0, 0, 0⟩))) ∧
        (if (scalar2 r).toNat < geo.numDimensions then
          (∃ w, fold geo s.rom (scalar1 r) (scalar2 r) = some w ∧
            sobolOn geo s = .next (complete s r rest (.ok (pack ⟨w, 0, 0, 0⟩)))) ∧
          ((scalar1 r).toNat < 65536 →
            ∃ w, sample geo Config.constants s.rom (scalar1 r) (scalar2 r) (scalar3 r) = some w ∧
              sampleOn geo s = .next (complete s r rest (.ok (pack ⟨w, 0, 0, 0⟩)))) ∧
          (65536 ≤ (scalar1 r).toNat →
            ∃ t : State, sampleOn geo s = .next t ∧ t.rom = s.rom ∧ t.inFlight = rest ∧
              match Config.indexCheck with
              | .validating => t.delivered = s.delivered ++ [⟨r, .fault .indexRange⟩]
              | .fast => ∃ y : Word, t.delivered = s.delivered ++ [⟨r, .ok (pack ⟨tonorm y, 0, 0, 0⟩)⟩])
        else sobolOn geo s = .next (complete s r rest (.fault .dimensionRange)) ∧
          sampleOn geo s = .next (complete s r rest (.fault .dimensionRange))) ∧
        (if (scalar2 r).toNat < geo.numDimensionSets4D then
          (∃ v, fold4 geo Config.datapath s.rom (scalar1 r) (scalar2 r) = some v ∧
            sobol4On geo s = .next (complete s r rest (.ok (pack v)))) ∧
          ((scalar1 r).toNat < 65536 →
            ∃ v, sample4d geo Config.datapath Config.constants s.rom (scalar1 r) (scalar2 r) (scalar3 r) = some v ∧
              sample4dOn geo s = .next (complete s r rest (.ok (pack v)))) ∧
          (65536 ≤ (scalar1 r).toNat →
            ∃ t : State, sample4dOn geo s = .next t ∧ t.rom = s.rom ∧ t.inFlight = rest ∧
              match Config.indexCheck with
              | .validating => t.delivered = s.delivered ++ [⟨r, .fault .indexRange⟩]
              | .fast => ∃ y0 y1 y2 y3 : Word,
                t.delivered = s.delivered ++ [⟨r, .ok (pack ⟨tonorm y0, tonorm y1, tonorm y2, tonorm y3⟩)⟩])
        else sobol4On geo s = .next (complete s r rest (.fault .dimensionSetRange)) ∧
          sample4dOn geo s = .next (complete s r rest (.fault .dimensionSetRange)))
end

