-- ==== Sys2Proof/Laws/Bits.lean ====
section
/-!
SUPPORT. What bit reversal, byte order and lane packing do, bit by bit and lane by lane.
-/
namespace Sys2Proof.Machine

/-- The bits of an OR of single shifted bits, one per entry of the list. -/
theorem getLsbD_foldr_or {W : Nat} (f : Nat → Bool) (ls : List Nat) (i : Nat) :
    (ls.foldr (fun j acc => (if f j then 1#W <<< j else 0#W) ||| acc) 0#W).getLsbD i =
      (decide (i < W) && ls.any fun j => j == i && f j) := by
  induction ls with
  | nil => simp
  | cons j ls ih =>
    rw [List.foldr_cons, BitVec.getLsbD_or, ih, List.any_cons]
    by_cases hf : f j <;> by_cases hi : i < W <;> simp [hf, hi, BitVec.getLsbD_shiftLeft, BitVec.getLsbD_one]
    by_cases hji : j = i
    · subst hji; simp
    · have h1 : (j == i) = false := by simp [hji]
      have h2 : (!decide (i < j) && decide (i - j = 0)) = false := by
        by_cases h : i < j <;> simp [h]; omega
      simp [h1, h2]

theorem getLsbD_revBits {W : Nat} (x : BitVec W) (i : Nat) :
    (revBits x).getLsbD i = (decide (i < W) && x.getLsbD (W - 1 - i)) := by
  unfold revBits
  rw [getLsbD_foldr_or (fun j => x.getLsbD (W - 1 - j))]
  by_cases hi : i < W
  · simp only [hi, decide_true, Bool.true_and]
    rw [Bool.eq_iff_iff, List.any_eq_true]
    constructor
    · rintro ⟨j, -, hj⟩
      simp at hj
      obtain ⟨rfl, h⟩ := hj
      exact h
    · intro h
      exact ⟨i, by simpa using hi, by simpa using h⟩
  · simp [hi]

@[simp] theorem getLsbD_rev32 (x : Word) (i : Nat) :
    (rev32 x).getLsbD i = (decide (i < 32) && x.getLsbD (31 - i)) := getLsbD_revBits x i

theorem revBits_eq_reverse {W : Nat} (x : BitVec W) : revBits x = x.reverse := by
  apply BitVec.eq_of_getLsbD_eq
  intro i hi
  rw [getLsbD_revBits, BitVec.getLsbD_reverse, BitVec.getMsbD]

/-- The bytes of a word in the serialised image give the word back (20_memory.md R25). -/
theorem wordOfBytes_byteOfWord (w : Word) :
    wordOfBytes (byteOfWord w 0) (byteOfWord w 1) (byteOfWord w 2) (byteOfWord w 3) = w := by
  apply BitVec.eq_of_getLsbD_eq
  intro i hi
  simp only [wordOfBytes, byteOfWord, BitVec.getLsbD_append, BitVec.getLsbD_extractLsb']
  by_cases h1 : i < 8
  · simp [h1]
  · by_cases h2 : i - 8 < 8
    · simp [h1, h2]; congr 1; omega
    · by_cases h3 : i - 8 - 8 < 8
      · simp [h1, h2, h3]; congr 1; omega
      · have h4 : i - 8 - 8 - 8 < 8 := by omega
        simp [h1, h2, h3, h4]; congr 1; omega

@[simp] theorem unpack_pack (v : Int4) : unpack (pack v) = v := by
  obtain ⟨a, b, c, d⟩ := v
  simp only [unpack, pack, Int4.mk.injEq]
  refine ⟨?_, ?_, ?_, ?_⟩ <;> apply BitVec.eq_of_getLsbD_eq <;> intro i hi <;>
    simp only [BitVec.getLsbD_extractLsb', BitVec.getLsbD_append] <;>
    simp [hi, show ¬ (32 + i < 32) by omega, show ¬ (64 + i < 32) by omega, show ¬ (96 + i < 32) by omega,
      show 64 + i - 32 = 32 + i by omega, show 96 + i - 32 = 64 + i by omega]

/-- Two `Int4` values with the same lanes are the same. -/
theorem int4_ext {v w : Int4} (h : ∀ k : Fin 4, v.lane k = w.lane k) : v = w := by
  obtain ⟨a, b, c, d⟩ := v
  obtain ⟨e, f, g, i⟩ := w
  have h0 := h 0
  have h1 := h 1
  have h2 := h 2
  have h3 := h 3
  simp [Int4.lane] at h0 h1 h2 h3
  simp [h0, h1, h2, h3]

@[simp] theorem lane_splat (c : Word) (k : Fin 4) : (splat c).lane k = c := by
  match k with
  | 0 | 1 | 2 | 3 => rfl

@[simp] theorem lane_mapLanes (f : Word → Word) (a : Int4) (k : Fin 4) : (mapLanes f a).lane k = f (a.lane k) := by
  match k with
  | 0 | 1 | 2 | 3 => rfl

@[simp] theorem lane_zipLanes (f : Word → Word → Word) (a b : Int4) (k : Fin 4) :
    (zipLanes f a b).lane k = f (a.lane k) (b.lane k) := by
  match k with
  | 0 | 1 | 2 | 3 => rfl

end Sys2Proof.Machine
end

