-- ==== Sys2Proof/Laws/State.lean ====
section
/-!
SUPPORT. One lemma per field per update of State: answering a request, drawing values, presenting a request, reset.
-/
namespace Sys2Proof.Machine

section complete
variable (s : State) (r : Request) (rest : List Request) (resp : Response)

@[simp] theorem complete_rom : (complete s r rest resp).rom = s.rom := rfl
@[simp] theorem complete_inFlight : (complete s r rest resp).inFlight = rest := rfl
@[simp] theorem complete_delivered : (complete s r rest resp).delivered = s.delivered ++ [⟨r, resp⟩] := rfl
@[simp] theorem complete_draws : (complete s r rest resp).draws = s.draws := rfl

end complete

section completeDrawn
variable (s : State) (r : Request) (rest : List Request) (n : Nat) (make : Nat → Int4)

@[simp] theorem completeDrawn_rom : (completeDrawn s r rest n make).rom = s.rom := rfl
@[simp] theorem completeDrawn_inFlight : (completeDrawn s r rest n make).inFlight = rest := rfl
@[simp] theorem completeDrawn_delivered :
    (completeDrawn s r rest n make).delivered = s.delivered ++ [⟨r, .ok (pack (make s.draws))⟩] := rfl
@[simp] theorem completeDrawn_draws : (completeDrawn s r rest n make).draws = s.draws + n := rfl

end completeDrawn

section host
variable (s : State) (r : Request)

@[simp] theorem present_rom : (s.present r).rom = s.rom := rfl
@[simp] theorem present_inFlight : (s.present r).inFlight = s.inFlight ++ [r] := rfl
@[simp] theorem present_delivered : (s.present r).delivered = s.delivered := rfl
@[simp] theorem present_draws : (s.present r).draws = s.draws := rfl
@[simp] theorem applyReset_rom : s.applyReset.rom = s.rom := rfl
@[simp] theorem applyReset_inFlight : s.applyReset.inFlight = [] := rfl
@[simp] theorem applyReset_delivered : s.applyReset.delivered = s.delivered := rfl
@[simp] theorem applyReset_draws : s.applyReset.draws = s.draws := rfl
@[simp] theorem reset_rom : State.reset.rom = [] := rfl
@[simp] theorem reset_inFlight : State.reset.inFlight = [] := rfl
@[simp] theorem reset_delivered : State.reset.delivered = [] := rfl
@[simp] theorem reset_draws : State.reset.draws = 0 := rfl

end host

end Sys2Proof.Machine
end

