-- ==== Sys2Proof/Laws/Ops.lean ====
section
/-!
SUPPORT. What each shared operation can do: ROM reads, answering the oldest request, going on with a ROM value.
-/
namespace Sys2Proof.Machine

@[simp] theorem geometry_numDimensions : Config.geometry.numDimensions = 256 := rfl

@[simp] theorem geometry_numDimensionSets4D : Config.geometry.numDimensionSets4D = 64 := rfl

/-- A geometry has four dimensions to a set (00_scope.md R6). -/
theorem numDimensions_eq (geo : Config.Geometry) : geo.numDimensions = 4 * geo.numDimensionSets4D := by
  have h1 := geo.numDimensions_mod_four
  have h2 := geo.numDimensionSets4D_eq
  omega

/-- Sixteen words to a dimension (20_memory.md R22). -/
theorem romWords_eq (geo : Config.Geometry) : romWords geo = geo.numDimensions * 16 := by
  rw [numDimensions_eq]
  simp only [romWords, Config.numLevels]
  omega

/-- 4096 words on this hardware (20_memory.md R22). -/
@[simp] theorem romWords_geometry : romWords Config.geometry = 4096 := rfl

/-- A word address inside the ROM reads (20_memory.md R28). -/
theorem readWord_of_lt {geo : Config.Geometry} (m : Memory) {w : Nat} (h : w < romWords geo) :
    m.readWord geo w = some (wordOfBytes (m.byteAt (4 * w)) (m.byteAt (4 * w + 1)) (m.byteAt (4 * w + 2))
      (m.byteAt (4 * w + 3))) := by
  rw [Memory.readWord, if_pos h]

/-- The one way a word read answers. -/
theorem readWord_eq_some {geo : Config.Geometry} {m : Memory} {w : Nat} {v : Word} (h : m.readWord geo w = some v) :
    w < romWords geo := by
  rw [Memory.readWord] at h
  split at h
  · assumption
  · cases h

/-- With nothing listed a word read gives the image's word (20_memory.md R32 (a)). -/
theorem readWord_nil {geo : Config.Geometry} {w : Nat} (h : w < romWords geo) :
    Memory.readWord geo [] w = some (imageWord w) := by
  rw [readWord_of_lt [] h]
  simp only [Memory.byteAt, Memory.unlisted]
  rw [show 4 * w / 4 = w by omega, show (4 * w + 1) / 4 = w by omega, show (4 * w + 2) / 4 = w by omega,
    show (4 * w + 3) / 4 = w by omega, show 4 * w % 4 = 0 by omega, show (4 * w + 1) % 4 = 1 by omega,
    show (4 * w + 2) % 4 = 2 by omega, show (4 * w + 3) % 4 = 3 by omega, wordOfBytes_byteOfWord]

theorem waddr_lt {geo : Config.Geometry} {g l k : Nat} (hg : g < geo.numDimensionSets4D) (hl : l < 16) (hk : k < 4) :
    waddr g l k < romWords geo := by
  simp only [waddr, romWords, Config.numLevels]
  omega

/-- The image's word at the address of `(g, l, k)` is `DV_IMAGE[g][l][k]` (20_memory.md R22, R23). -/
theorem imageWord_waddr {g l k : Nat} (hl : l < 16) (hk : k < 4) : imageWord (waddr g l k) = dvImage g l k := by
  unfold imageWord waddr
  rw [show ((g * 16 + l) * 4 + k) / 64 = g by omega, show ((g * 16 + l) * 4 + k) / 4 % 16 = l by omega,
    show ((g * 16 + l) * 4 + k) % 4 = k by omega]

/-- A row read is four word reads (20_memory.md R24). -/
theorem readRow_of_words {geo : Config.Geometry} {m : Memory} {row : Nat} {w : Fin 4 → Word}
    (h : ∀ k : Fin 4, m.readWord geo (row * 4 + k) = some (w k)) : m.readRow geo row = some ⟨w 0, w 1, w 2, w 3⟩ := by
  have h0 := h 0
  have h1 := h 1
  have h2 := h 2
  have h3 := h 3
  simp only [Fin.val_zero, Nat.add_zero, Fin.val_one, Fin.val_two] at h0 h1 h2
  rw [show ((3 : Fin 4) : Nat) = 3 from rfl] at h3
  simp only [Memory.readRow, h0, h1, h2, h3]

/-- An operation runs on the oldest request in flight. -/
theorem withRequest_cons {s : State} {r : Request} {rest : List Request} (k : Request → List Request → StepOutcome)
    (h : s.inFlight = r :: rest) : withRequest s k = k r rest := by
  simp only [withRequest, h]

/-- If an operation answers a next state, a request was in flight and the operation ran on it. -/
theorem withRequest_eq_next {s t : State} {k : Request → List Request → StepOutcome} (h : withRequest s k = .next t) :
    ∃ r rest, s.inFlight = r :: rest ∧ k r rest = .next t := by
  unfold withRequest at h
  split at h
  · cases h
  · exact ⟨_, _, ‹_›, h⟩

/-- If the machine goes on with a ROM value, the value was read. -/
theorem withRom_eq_next {α : Type} {v : Option α} {k : α → StepOutcome} {t : State} (h : withRom v k = .next t) :
    ∃ x, v = some x ∧ k x = .next t := by
  unfold withRom at h
  split at h
  · cases h
  · exact ⟨_, rfl, h⟩

@[simp] theorem withRom_some {α : Type} (x : α) (k : α → StepOutcome) : withRom (some x) k = k x := rfl

@[simp] theorem dimensionInRange_iff (geo : Config.Geometry) (d : Word) :
    dimensionInRange geo d = true ↔ d.toNat < geo.numDimensions := by
  simp [dimensionInRange]

@[simp] theorem dimensionSetInRange_iff (geo : Config.Geometry) (g : Word) :
    dimensionSetInRange geo g = true ↔ g.toNat < geo.numDimensionSets4D := by
  simp [dimensionSetInRange]

@[simp] theorem indexInRange_iff (n : Word) : indexInRange n = true ↔ n.toNat < 65536 := by
  simp [indexInRange]

end Sys2Proof.Machine
end

