-- ==== Sys2Proof/Laws/Fold.lean ====
section
/-!
SUPPORT. What the folds give: they answer for every operand in range, and what they answer is the XOR of the selected
levels.
-/
namespace Sys2Proof.Machine

/-- The XOR of the selected levels, over values already read. -/
def xorOfLevels {α : Type} (xor : α → α → α) (zero : α) (word : Nat → α) (idx : Word) : List Nat → α
  | [] => zero
  | l :: ls =>
    if idx.getLsbD (31 - l) then xor (word l) (xorOfLevels xor zero word idx ls) else xorOfLevels xor zero word idx ls

/-- Where every level reads, the fold answers the XOR of the selected ones. -/
theorem xorSelected_eq {α : Type} (xor : α → α → α) (zero : α) {read : Nat → Option α} {word : Nat → α} (idx : Word)
    {ls : List Nat} (h : ∀ l ∈ ls, read l = some (word l)) :
    xorSelected xor zero read idx ls = some (xorOfLevels xor zero word idx ls) := by
  induction ls with
  | nil => rfl
  | cons l ls ih =>
    have hl := h l (by simp)
    have ih := ih fun l' hl' => h l' (by simp [hl'])
    simp only [xorSelected, ih, hl, xorOfLevels]

/-- The words of a dimension in range, level by level. -/
def levelWord (geo : Config.Geometry) (rom : Memory) (d : Word) (l : Nat) : Word := (dimensionWord geo rom d l).getD 0

theorem groupOf_lt {geo : Config.Geometry} {d : Word} (hd : d.toNat < geo.numDimensions) :
    (groupOf d).toNat < geo.numDimensionSets4D := by
  rw [numDimensions_eq] at hd
  simp only [groupOf, BitVec.toNat_ushiftRight, Nat.shiftRight_eq_div_pow]
  omega

/-- Every level of a dimension in range reads (20_memory.md R28). -/
theorem dimensionWord_eq {geo : Config.Geometry} (rom : Memory) {d : Word} {l : Nat} (hd : d.toNat < geo.numDimensions)
    (hl : l < 16) : dimensionWord geo rom d l = some (levelWord geo rom d l) := by
  unfold levelWord dimensionWord
  rw [readWord_of_lt rom (waddr_lt (groupOf_lt hd) hl (laneOf d).isLt)]
  rfl

/-- The scalar fold of a dimension in range. -/
theorem fold_eq {geo : Config.Geometry} (rom : Memory) (x : Word) {d : Word} (hd : d.toNat < geo.numDimensions) :
    fold geo rom x d = some (xorOfLevels (· ^^^ ·) 0 (levelWord geo rom d) (maskIndex x) (List.range 16)) :=
  xorSelected_eq _ _ _ fun _ hl => dimensionWord_eq rom hd (List.mem_range.mp hl)

/-- The rows of a dimension set in range, level by level. -/
def levelRow (geo : Config.Geometry) (rom : Memory) (g : Word) (l : Nat) : Int4 := (groupRow geo rom g l).getD (splat 0)

/-- Every row of a dimension set in range reads (20_memory.md R28). -/
theorem groupRow_eq {geo : Config.Geometry} (rom : Memory) {g : Word} {l : Nat} (hg : g.toNat < geo.numDimensionSets4D)
    (hl : l < 16) : groupRow geo rom g l = some (levelRow geo rom g l) := by
  unfold levelRow groupRow
  rw [readRow_of_words fun k => readWord_of_lt rom (by
    have := waddr_lt hg hl k.isLt
    simpa only [waddr, raddr] using this)]
  rfl

/-- The 4-lane fold of a dimension set in range. -/
theorem fold4_eq {geo : Config.Geometry} (dp : Config.Datapath) (rom : Memory) (x : Word) {g : Word}
    (hg : g.toNat < geo.numDimensionSets4D) :
    fold4 geo dp rom x g = some (xorOfLevels (i4Xor dp) (splat 0) (levelRow geo rom g) (maskIndex x) (List.range 16)) :=
  xorSelected_eq _ _ _ fun _ hl => groupRow_eq rom hg (List.mem_range.mp hl)

/-- The index bits the fold sees are those of the unmasked index (41_sobol_scalar.md R73). -/
theorem getLsbD_maskIndex (x : Word) {l : Nat} (hl : l < 16) : (maskIndex x).getLsbD (31 - l) = x.getLsbD (31 - l) := by
  unfold maskIndex
  rw [BitVec.getLsbD_and]
  have h : (0xFFFF0000 : Word).getLsbD (31 - l) = true := by
    interval_cases l <;> decide
  rw [h, Bool.and_true]

end Sys2Proof.Machine
end

