-- ==== Sys2Proof/Laws/Exec.lean ====
section
/-!
SUPPORT. What one operation can do: the inversion lemma of `exec`, from which frames and invariants follow, and its
completion.
-/
namespace Sys2Proof.Machine

/-- What a request's answer is: the state after it. -/
inductive Answers (s : State) (r : Request) (rest : List Request) : State → Prop
  | answered (resp : Response) : Answers s r rest (complete s r rest resp)
  | drawn (n : Nat) (make : Nat → Int4) : Answers s r rest (completeDrawn s r rest n make)

theorem Answers.rom {s t : State} {r : Request} {rest : List Request} (h : Answers s r rest t) : t.rom = s.rom := by
  cases h <;> rfl

theorem Answers.inFlight {s t : State} {r : Request} {rest : List Request} (h : Answers s r rest t) :
    t.inFlight = rest := by
  cases h <;> rfl

theorem Answers.delivered {s t : State} {r : Request} {rest : List Request} (h : Answers s r rest t) :
    ∃ resp, t.delivered = s.delivered ++ [⟨r, resp⟩] := by
  cases h with
  | answered resp => exact ⟨resp, rfl⟩
  | drawn n make => exact ⟨_, rfl⟩

theorem succeed_answers {s : State} {r : Request} {rest : List Request} {v : Int4} :
    ∃ t, succeed s r rest v = .next t ∧ Answers s r rest t := ⟨_, rfl, .answered _⟩

theorem raise_answers {s : State} {r : Request} {rest : List Request} {c : FaultCode} :
    ∃ t, raise s r rest c = .next t ∧ Answers s r rest t := ⟨_, rfl, .answered _⟩

theorem fold_isSome {geo : Config.Geometry} (rom : Memory) (x : Word) {d : Word} (h : dimensionInRange geo d = true) :
    ∃ v, fold geo rom x d = some v :=
  ⟨_, fold_eq rom x (by simpa using h)⟩

theorem fold4_isSome {geo : Config.Geometry} (dp : Config.Datapath) (rom : Memory) (x : Word) {g : Word}
    (h : dimensionSetInRange geo g = true) : ∃ v, fold4 geo dp rom x g = some v :=
  ⟨_, fold4_eq dp rom x (by simpa using h)⟩

theorem sample_isSome {geo : Config.Geometry} (c : Config.Constants) (rom : Memory) (n seed : Word) {d : Word}
    (h : dimensionInRange geo d = true) : ∃ v, sample geo c rom n d seed = some v := by
  obtain ⟨v, hv⟩ := fold_isSome rom (shuffledIndex c n seed) h
  exact ⟨_, congrArg (Option.map fun sobol => scrambleAndConvert c sobol d seed) hv⟩

theorem sample4d_isSome {geo : Config.Geometry} (dp : Config.Datapath) (c : Config.Constants) (rom : Memory) (n seed : Word) {g : Word}
    (h : dimensionSetInRange geo g = true) : ∃ v, sample4d geo dp c rom n g seed = some v := by
  obtain ⟨v, hv⟩ := fold4_isSome dp rom (shuffledIndex c n seed) h
  exact ⟨_, congrArg (Option.map fun sobol4 => scrambleAndConvert4 dp c sobol4 g seed) hv⟩

theorem sampleIndexOutOfRange_answers (check : Config.IndexCheck) (s : State) (r : Request) (rest : List Request) :
    Answers s r rest (sampleIndexOutOfRange check s r rest) := by
  cases check with
  | validating => exact Answers.answered (.fault .indexRange)
  | fast => exact Answers.drawn 1 fun n => scalarResult (tonorm (Config.freeWord n))

theorem sample4dIndexOutOfRange_answers (check : Config.IndexCheck) (s : State) (r : Request) (rest : List Request) :
    Answers s r rest (sample4dIndexOutOfRange check s r rest) := by
  cases check with
  | validating => exact Answers.answered (.fault .indexRange)
  | fast => exact Answers.drawn 4 drawnLanes

/-- Every operation answers the oldest request in flight: it neither faults nor is refused. -/
theorem exec_answers (i : Instr) {s : State} {r : Request} {rest : List Request} (h : s.inFlight = r :: rest) :
    ∃ t, exec i s = .next t ∧ Answers s r rest t := by
  cases i with
  | rdconst sel =>
    simp only [exec, execRdconst, rdconstOn, withRequest_cons _ h]
    split
    · exact succeed_answers
    · exact raise_answers
  | sobol =>
    simp only [exec, execSobol, sobolOn, withRequest_cons _ h]
    split
    · obtain ⟨v, hv⟩ := fold_isSome s.rom (scalar1 r) ‹_›
      rw [hv]
      exact succeed_answers
    · exact raise_answers
  | sobol4 =>
    simp only [exec, execSobol4, sobol4On, withRequest_cons _ h]
    split
    · obtain ⟨v, hv⟩ := fold4_isSome Config.datapath s.rom (scalar1 r) ‹_›
      rw [hv]
      exact succeed_answers
    · exact raise_answers
  | sample =>
    simp only [exec, execSample, sampleOn, withRequest_cons _ h]
    split
    · obtain ⟨v, hv⟩ := sample_isSome Config.constants s.rom (scalar1 r) (scalar3 r) ‹dimensionInRange _ _ = true›
      split
      · rw [hv]
        exact succeed_answers
      · exact ⟨_, rfl, sampleIndexOutOfRange_answers _ s r rest⟩
    · exact raise_answers
  | sample4d =>
    simp only [exec, execSample4d, sample4dOn, withRequest_cons _ h]
    split
    · obtain ⟨v, hv⟩ := sample4d_isSome Config.datapath Config.constants s.rom (scalar1 r) (scalar3 r)
        ‹dimensionSetInRange _ _ = true›
      split
      · rw [hv]
        exact succeed_answers
      · exact ⟨_, rfl, sample4dIndexOutOfRange_answers _ s r rest⟩
    · exact raise_answers
  | rev32 | hash | owen | tonorm | i4Add | i4Sub | i4Mul | i4And | i4Or | i4Xor | i4Shl | i4Shr | i4Rev | i4Tonorm
  | hash4 | owen4 =>
    simp only [exec, execRev32, execHash, execOwen, execTonorm, execI4Add, execI4Sub, execI4Mul, execI4And, execI4Or,
      execI4Xor, execI4Shl, execI4Shr, execI4Rev, execI4Tonorm, execHash4, execOwen4, withRequest_cons _ h]
    exact succeed_answers

/-- With no request in flight every operation is refused by name. -/
theorem exec_idle (i : Instr) {s : State} (h : s.inFlight = []) : exec i s = .refused .noRequest := by
  cases i <;>
    simp only [exec, execRdconst, execRev32, execHash, execOwen, execSobol, execTonorm, execSample, execI4Add, execI4Sub,
      execI4Mul, execI4And, execI4Or, execI4Xor, execI4Shl, execI4Shr, execI4Rev, execI4Tonorm, execHash4, execOwen4,
      execSobol4, execSample4d, rdconstOn, sobolOn, sampleOn, sobol4On, sample4dOn, withRequest, h]

/-- If an operation answers a next state, it answered the oldest request in flight. -/
theorem exec_eq_next {i : Instr} {s t : State} (h : exec i s = .next t) :
    ∃ r rest, s.inFlight = r :: rest ∧ Answers s r rest t := by
  cases hq : s.inFlight with
  | nil => rw [exec_idle i hq] at h; cases h
  | cons r rest =>
    obtain ⟨t', ht', ha⟩ := exec_answers i hq
    rw [h] at ht'
    cases ht'
    exact ⟨r, rest, rfl, ha⟩

/-- A step with a request in flight answers it. -/
theorem step_cons {s : State} {r : Request} {rest : List Request} (h : s.inFlight = r :: rest) :
    step s = match decode r.cmd with
      | .ok i => exec i s
      | .error _ => raise s r rest .illegalCommand := by
  cases hd : decode r.cmd <;> simp only [step, h, hd]

/-- An idle block stays as it is. -/
theorem step_idle {s : State} (h : s.inFlight = []) : step s = .next s := by
  simp only [step, h]

end Sys2Proof.Machine
end

