-- ==== Sys2Proof/Laws/Run.lean ====
section
/-!
SUPPORT. Runs of the machine, step by step.
-/
namespace Sys2Proof.Machine

/-- A run of a machine whose first step answers a next state goes on from there. -/
theorem coreRun_succ (M : Host.Core) (n : Nat) {s t : M.State} (h : M.step s = .next t) : M.run (n + 1) s = M.run n t := by
  rw [Host.Core.run.eq_2, h]

/-- A run of the block whose first step answers `t` goes on from `t`. -/
theorem run_succ (n : Nat) {s t : State} (h : step s = .next t) :
    Host.Core.run Sys2Proof.core (n + 1) s = Host.Core.run Sys2Proof.core n t :=
  coreRun_succ Sys2Proof.core n h

/-- No step: the state itself. -/
theorem run_zero (s : State) : Host.Core.run Sys2Proof.core 0 s = .next s := rfl

/-- A step with a request in flight answers it. -/
theorem step_answers {s : State} {r : Request} {rest : List Request} (h : s.inFlight = r :: rest) :
    ∃ t, step s = .next t ∧ Answers s r rest t := by
  rw [step_cons h]
  cases decode r.cmd with
  | ok i => exact exec_answers i h
  | error e => exact raise_answers

end Sys2Proof.Machine
end

