-- ==== Sys2Proof/Laws/Memory.lean ====
section
/-!
SUPPORT. The canonical form of the ROM's list: reset has it and every operation and every step keeps it.
-/
namespace Sys2Proof.Machine

/-- The ROM's list is canonical after reset. -/
theorem reset_rom_wf : Memory.wf Config.geometry State.reset.rom = true := rfl

/-- Every operation keeps the ROM's list as it is, and so its canonical form. -/
theorem exec_rom_wf {i : Instr} {s t : State} (h : exec i s = .next t) (hw : Memory.wf Config.geometry s.rom = true) :
    Memory.wf Config.geometry t.rom = true := by
  obtain ⟨r, rest, -, ha⟩ := exec_eq_next h
  rw [ha.rom]
  exact hw

/-- Every step keeps the ROM's list as it is. -/
theorem step_rom {s t : State} (h : step s = .next t) : t.rom = s.rom := by
  cases hq : s.inFlight with
  | nil =>
    rw [step_idle hq] at h
    cases h
    rfl
  | cons r rest =>
    obtain ⟨u, hu, ha⟩ := step_answers hq
    rw [h] at hu
    cases hu
    exact ha.rom

/-- Every step keeps the canonical form of the ROM's list. -/
theorem step_rom_wf {s t : State} (h : step s = .next t) (hw : Memory.wf Config.geometry s.rom = true) :
    Memory.wf Config.geometry t.rom = true := by
  rw [step_rom h]
  exact hw

/-- Every address a canonical list holds is inside the ROM. -/
theorem wf_address {geo : Config.Geometry} {m : Memory} (h : Memory.wf geo m = true) : ∀ c ∈ m, c.1 < 4 * romWords geo := by
  induction m with
  | nil => simp
  | cons c rest ih =>
    simp only [Memory.wf, Bool.and_eq_true, decide_eq_true_eq] at h
    obtain ⟨⟨⟨h1, -⟩, -⟩, h4⟩ := h
    simp only [List.mem_cons, forall_eq_or_imp]
    exact ⟨h1, ih h4⟩

/-- The host's inputs keep the ROM's list. -/
theorem present_rom_wf {s : State} (r : Request) (h : Memory.wf Config.geometry s.rom = true) :
    Memory.wf Config.geometry (s.present r).rom = true := h

theorem applyReset_rom_wf {s : State} (h : Memory.wf Config.geometry s.rom = true) :
    Memory.wf Config.geometry s.applyReset.rom = true := h

end Sys2Proof.Machine
end

