-- ==== Sys2Proof/Laws/PerInstr.lean ====
section
/-!
SUPPORT. Statements about every instruction as syntax, one lemma per constructor.
-/
namespace Sys2Proof.Laws

/-- The reserved field of an instruction's command word is 0 (30_encoding.md R37). -/
def ReservedBitsZero.Statement (i : Instr) : Prop := rsvField (encode i) = 0

/-- A command word made from an operation code and an `SH` field has reserved field 0. -/
theorem rsvField_commandWord (op : BitVec 8) (sh : BitVec 5) : rsvField (commandWord op sh) = 0 := by
  apply BitVec.eq_of_getLsbD_eq
  intro j hj
  rw [rsvField, commandWord, BitVec.getLsbD_extractLsb', BitVec.getLsbD_cast, BitVec.getLsbD_append, BitVec.getLsbD_append,
    if_neg (by omega), if_neg (by omega)]
  simp

theorem ReservedBitsZero.rdconst (x : BitVec 5) : ReservedBitsZero.Statement (.rdconst x) := rsvField_commandWord _ _

theorem ReservedBitsZero.rev32 : ReservedBitsZero.Statement .rev32 := rsvField_commandWord _ _

theorem ReservedBitsZero.hash : ReservedBitsZero.Statement .hash := rsvField_commandWord _ _

theorem ReservedBitsZero.owen : ReservedBitsZero.Statement .owen := rsvField_commandWord _ _

theorem ReservedBitsZero.sobol : ReservedBitsZero.Statement .sobol := rsvField_commandWord _ _

theorem ReservedBitsZero.tonorm : ReservedBitsZero.Statement .tonorm := rsvField_commandWord _ _

theorem ReservedBitsZero.sample : ReservedBitsZero.Statement .sample := rsvField_commandWord _ _

theorem ReservedBitsZero.i4Add : ReservedBitsZero.Statement .i4Add := rsvField_commandWord _ _

theorem ReservedBitsZero.i4Sub : ReservedBitsZero.Statement .i4Sub := rsvField_commandWord _ _

theorem ReservedBitsZero.i4Mul : ReservedBitsZero.Statement .i4Mul := rsvField_commandWord _ _

theorem ReservedBitsZero.i4And : ReservedBitsZero.Statement .i4And := rsvField_commandWord _ _

theorem ReservedBitsZero.i4Or : ReservedBitsZero.Statement .i4Or := rsvField_commandWord _ _

theorem ReservedBitsZero.i4Xor : ReservedBitsZero.Statement .i4Xor := rsvField_commandWord _ _

theorem ReservedBitsZero.i4Shl (x : BitVec 5) : ReservedBitsZero.Statement (.i4Shl x) := rsvField_commandWord _ _

theorem ReservedBitsZero.i4Shr (x : BitVec 5) : ReservedBitsZero.Statement (.i4Shr x) := rsvField_commandWord _ _

theorem ReservedBitsZero.i4Rev : ReservedBitsZero.Statement .i4Rev := rsvField_commandWord _ _

theorem ReservedBitsZero.i4Tonorm : ReservedBitsZero.Statement .i4Tonorm := rsvField_commandWord _ _

theorem ReservedBitsZero.hash4 : ReservedBitsZero.Statement .hash4 := rsvField_commandWord _ _

theorem ReservedBitsZero.owen4 : ReservedBitsZero.Statement .owen4 := rsvField_commandWord _ _

theorem ReservedBitsZero.sobol4 : ReservedBitsZero.Statement .sobol4 := rsvField_commandWord _ _

theorem ReservedBitsZero.sample4d : ReservedBitsZero.Statement .sample4d := rsvField_commandWord _ _

end Sys2Proof.Laws
end

