-- ==== Sys2Proof/Tests/Slice0.lean ====
section
/-!
SUPPORT. Tests: decoding of words written out from 30_encoding.md R43, the smoke test of WellFormed, the spec's vectors
(95_test_vectors.md V1 to V15, each named at its test), and a witness for the hypotheses of every statement.
-/
namespace Sys2Proof.Tests

open Sys2Proof.Machine
open Sys2Proof.Config (geometry)

set_option Elab.async false

/-! ## Decoding: OP in bits 7:0, SH in bits 12:8, RSV in bits 31:13 (30_encoding.md R37, R43; V1) -/

theorem test_decode_rdconst0 : decode 0b00000000000000000000000000000001 = .ok (.rdconst 0) := rfl
theorem test_decode_rdconst1 : decode 0b00000000000000000000000100000001 = .ok (.rdconst 1) := rfl
theorem test_decode_i4Shl : decode 0b00000000000000000000100100100110 = .ok (.i4Shl 9) := rfl
theorem test_decode_i4Shr : decode 0b00000000000000000001111100100111 = .ok (.i4Shr 31) := rfl
theorem test_decode_rev32 : decode 0b00000000000000000000000000010000 = .ok .rev32 := rfl
theorem test_decode_hash : decode 0b00000000000000000000000000010001 = .ok .hash := rfl
theorem test_decode_owen : decode 0b00000000000000000000000000010010 = .ok .owen := rfl
theorem test_decode_sobol : decode 0b00000000000000000000000000010011 = .ok .sobol := rfl
theorem test_decode_tonorm : decode 0b00000000000000000000000000010100 = .ok .tonorm := rfl
theorem test_decode_sample : decode 0b00000000000000000000000000010101 = .ok .sample := rfl
theorem test_decode_i4Add : decode 0b00000000000000000000000000100000 = .ok .i4Add := rfl
theorem test_decode_i4Sub : decode 0b00000000000000000000000000100001 = .ok .i4Sub := rfl
theorem test_decode_i4Mul : decode 0b00000000000000000000000000100010 = .ok .i4Mul := rfl
theorem test_decode_i4And : decode 0b00000000000000000000000000100011 = .ok .i4And := rfl
theorem test_decode_i4Or : decode 0b00000000000000000000000000100100 = .ok .i4Or := rfl
theorem test_decode_i4Xor : decode 0b00000000000000000000000000100101 = .ok .i4Xor := rfl
theorem test_decode_i4Rev : decode 0b00000000000000000000000000101000 = .ok .i4Rev := rfl
theorem test_decode_i4Tonorm : decode 0b00000000000000000000000000101001 = .ok .i4Tonorm := rfl
theorem test_decode_hash4 : decode 0b00000000000000000000000000110001 = .ok .hash4 := rfl
theorem test_decode_owen4 : decode 0b00000000000000000000000000110010 = .ok .owen4 := rfl
theorem test_decode_sobol4 : decode 0b00000000000000000000000000110011 = .ok .sobol4 := rfl
theorem test_decode_sample4d : decode 0b00000000000000000000000000110101 = .ok .sample4d := rfl

/-- V1's unassigned operation codes. -/
theorem test_illegal_unassigned :
    decode 0x00000000 = .error (.unassignedOp 0x00) ∧ decode 0x00000002 = .error (.unassignedOp 0x02) ∧
      decode 0x00000016 = .error (.unassignedOp 0x16) ∧ decode 0x0000002A = .error (.unassignedOp 0x2A) ∧
      decode 0x00000030 = .error (.unassignedOp 0x30) ∧ decode 0x00000034 = .error (.unassignedOp 0x34) ∧
      decode 0x00000036 = .error (.unassignedOp 0x36) ∧ decode 0x000000FF = .error (.unassignedOp 0xFF) := by
  refine ⟨?_, ?_, ?_, ?_, ?_, ?_, ?_, ?_⟩ <;> rfl

/-- V1's selectors out of range, SH where 0 is required, reserved bits set. -/
theorem test_illegal_fields :
    decode 0x00000201 = .error (.selectorRange 2) ∧ decode 0x00001F01 = .error (.selectorRange 31) ∧
      decode 0x00000110 = .error (.shiftNotZero 1) ∧ decode 0x00002015 = .error (.reservedBits 1) ∧
      decode 0x80000026 = .error (.reservedBits 0x40000) := by
  refine ⟨?_, ?_, ?_, ?_, ?_⟩ <;> rfl

/-- The host's reading of a table word: 32 bits, and bits above `nbits` dropped. -/
theorem test_table_word : decodeTableWord 32 0x926 = some (.i4Shl 9) ∧ decodeTableWord 16 0x10035 = some .sample4d := by
  decide

/-! ## WellFormed smoke: its one check refuses an ill-formed term -/

theorem test_wf_refuses_selector : (Instr.rdconst 2).wf = false ∧ (Instr.rdconst 31).wf = false := by decide

theorem test_wf_accepts : (Instr.rdconst 1).wf = true ∧ (Instr.i4Shl 31).wf = true ∧ Instr.sample.wf = true := by decide

/-! ## Helpers: a block with one request waiting, and the response of its next step -/

/-- A request with a command word and two `Int4` operands. -/
def req (cmd : Word) (a b : Int4) : Request := ⟨cmd, pack a, pack b⟩

/-- The block right after reset, with one request presented. -/
def ask (cmd : Word) (a b : Int4) : State := State.reset.present (req cmd a b)

/-- The response the next step gives, if it answers one. -/
def response (s : State) : Option Response :=
  match step s with
  | .next t => t.delivered.getLast?.map Exchange.response
  | .fault _ => none
  | .refused _ => none

/-- A successful response. -/
def okay (v : Int4) : Option Response := some (.ok (pack v))

/-- V6's operands. -/
def vA : Int4 := ⟨0x00000000, 0xFFFFFFFF, 0x80000000, 0x12345678⟩
def vB : Int4 := ⟨0xFFFFFFFF, 0xFFFFFFFF, 0x80000000, 0x9ABCDEF0⟩

/-- V6's second set. -/
def vA2 : Int4 := ⟨0x00000001, 0x00000002, 0x00000003, 0x0000FFFF⟩
def vB2 : Int4 := ⟨0x00010001, 0x80000001, 0xFFFFFFFF, 0x0000FFFF⟩

/-- 95_test_vectors.md's example configuration EXCFG. They are not the block's constants. -/
def exCfg : Config.Constants :=
  { kHashIn := 0x79C68E4A, kShuffle := 0x5A7E3F1B, kSeedMul := 0x9C8F2D3B,
    kLane := ⟨0x912F69BA, 0x174F18AB, 0x691E72CA, 0xB40CC1B8⟩,
    owenM1 := 0x3D20ADEA, owenM2 := 0x05526C56, owenM3 := 0x53A22864 }

/-- EXROM's records, dimensions 1 to 7. -/
def exRecords : List Config.DirectionRecord :=
  [ (), (), (), (), (), (), () ].zipIdx.map fun p =>
    match p.2 with
    | 0 => { s := 1, a := 0, m := [1] }
    | 1 => { s := 2, a := 1, m := [1, 3] }
    | 2 => { s := 3, a := 1, m := [1, 3, 1] }
    | 3 => { s := 3, a := 2, m := [1, 1, 1] }
    | 4 => { s := 4, a := 1, m := [1, 1, 3, 3] }
    | 5 => { s := 4, a := 4, m := [1, 3, 5, 13] }
    | _ => { s := 5, a := 2, m := [1, 1, 5, 5, 17] }

/-- EXROM's stored words as the spec lists them, dimensions 0 to 7, levels 0 to 15. -/
def exWords : List (List Nat) :=
  [ [0x0001, 0x0002, 0x0004, 0x0008, 0x0010, 0x0020, 0x0040, 0x0080, 0x0100, 0x0200, 0x0400, 0x0800, 0x1000, 0x2000, 0x4000, 0x8000],
    [0x0001, 0x0003, 0x0005, 0x000F, 0x0011, 0x0033, 0x0055, 0x00FF, 0x0101, 0x0303, 0x0505, 0x0F0F, 0x1111, 0x3333, 0x5555, 0xFFFF],
    [0x0001, 0x0003, 0x0006, 0x0009, 0x0017, 0x003A, 0x0071, 0x00A3, 0x0116, 0x0339, 0x0677, 0x09AA, 0x1601, 0x3903, 0x7706, 0xAA09],
    [0x0001, 0x0003, 0x0004, 0x000A, 0x001F, 0x002E, 0x0045, 0x00C9, 0x011B, 0x02A4, 0x079A, 0x0B67, 0x101E, 0x302D, 0x4041, 0xA0C3],
    [0x0001, 0x0002, 0x0004, 0x000D, 0x001F, 0x003B, 0x005E, 0x00B9, 0x015A, 0x03F4, 0x0685, 0x0D0F, 0x115B, 0x23F6, 0x4681, 0xDD02],
    [0x0001, 0x0002, 0x0006, 0x000C, 0x0013, 0x0024, 0x006A, 0x00DF, 0x0107, 0x020E, 0x0615, 0x0C28, 0x1379, 0x24FB, 0x6B6D, 0xDDD1],
    [0x0001, 0x0003, 0x0005, 0x000B, 0x001A, 0x0029, 0x007C, 0x00C7, 0x017D, 0x03C4, 0x0478, 0x08CF, 0x1E62, 0x21E6, 0x621E, 0xE621],
    [0x0001, 0x0002, 0x0005, 0x000A, 0x0011, 0x0024, 0x0048, 0x00B4, 0x016E, 0x0279, 0x0410, 0x0826, 0x144D, 0x28BE, 0x457F, 0x925D] ]

/-- The ROM with EXROM's words of group `g` (0 or 1) listed byte by byte, in the order of the serialised image. -/
def exRom (g : Nat) : Memory :=
  (List.range' (256 * g) 256).map fun a =>
    (a, byteOfWord (BitVec.ofNat 32 ((exWords.getD (4 * g + a / 4 % 4) []).getD (a / 16 % 16) 0)) (a % 4))

/-! ## The ROM and its image -/

/-- V2 (b), (c), (d) and 40_dvtable.md R65: the generation gives EXROM's words, on 32-bit words. -/
theorem test_image_generation :
    exRecords.map (fun r => (List.range 16).map fun l => (storedOfRecord 32 r l).toNat) = exWords.tail := by decide +kernel

/-- V2 (d): the same words on 16-bit words. -/
theorem test_image_generation_16 :
    exRecords.map (fun r => (List.range 16).map fun l => (storedOfRecord 16 r l).toNat) = exWords.tail := by decide +kernel

/-- 40_dvtable.md R65: the natural-domain vectors of the record `s = 2, a = 1, m = (1, 3)`. -/
theorem test_image_natural :
    naturalVectors 32 { s := 2, a := 1, m := [1, 3] } 4 = [0x80000000, 0xC0000000, 0x60000000, 0x90000000] := by
  decide +kernel

/-- V2 (a): dimension 0's stored words. -/
theorem test_image_dimension0 :
    (List.range 16).map (fun l => (dvImage 0 l 0).toNat) = (exWords.getD 0 []) := by decide +kernel

/-- V2 (e): word addresses 0 to 7 and the serialised bytes; 95_test_vectors.md's row examples. -/
theorem test_rom_layout :
    (List.range 8).map ((exRom 0).readWord geometry) = [some 1, some 1, some 1, some 1, some 2, some 3, some 3, some 3] ∧
      (List.range 8).map ((exRom 0).readByte geometry) = [some 1, some 0, some 0, some 0, some 1, some 0, some 0, some 0] ∧
      (exRom 0).readRow geometry (raddr 0 2) = some ⟨4, 5, 6, 4⟩ ∧ raddr 1 15 = 31 ∧ waddr 1 15 0 = 124 ∧
      (exRom 1).readRow geometry 31 = some ⟨0xDD02, 0xDDD1, 0xE621, 0x925D⟩ := by decide +kernel

/-- 20_memory.md R22, R30: the last word address is 4095, and nothing lies beyond it. -/
theorem test_rom_end :
    waddr 63 15 3 = 4095 ∧ Memory.readWord geometry [] 4096 = none ∧ Memory.readByte geometry [] 16384 = none ∧
      Memory.readRow geometry [] 1024 = none := by
  refine ⟨by decide, ?_, ?_, ?_⟩ <;> rfl

/-! ## One or two vectors for each operation -/

/-- V1: RDCONST. -/
theorem test_rdconst :
    response (ask 0x00000001 vA vB) = okay ⟨256, 0, 0, 0⟩ ∧ response (ask 0x00000101 vA vB) = okay ⟨64, 0, 0, 0⟩ ∧
      response (ask 0x00000201 vA vB) = some (.fault .illegalCommand) := by decide +kernel

/-- V3: REV32. -/
theorem test_rev32 :
    response (ask 0x10 ⟨0x12345678, 7, 7, 7⟩ vB) = okay ⟨0x1E6A2C48, 0, 0, 0⟩ ∧ rev32 0xDEADBEEF = 0xF77DB57B ∧
      rev32 0x00010000 = 0x00008000 := by decide +kernel

/-- V4 (a): mix. -/
theorem test_mix : mix 0 = 0 ∧ mix 1 = 0x688990C0 ∧ mix 0x80000000 = 0xCC4B4124 ∧ mix 0xDEADBEEF = 0xE628C683 := by
  decide +kernel

/-- V4 (b): hash under EXCFG. -/
theorem test_hash :
    hash exCfg 0 = 0x6C77C295 ∧ hash exCfg 1 = 0x41BD8C35 ∧ hash exCfg 0x79C68E4A = 0 ∧
      hash exCfg 0x12345678 = 0x4598EC18 := by decide +kernel

/-- V5: owen under EXCFG, rows 2, 5, 6, 9. -/
theorem test_owen :
    owen exCfg 1 0 = 0x3EAEF8DD ∧ owen exCfg 0xFFFFFFFF 0xFFFFFFFF = 0x5EDBFD28 ∧
      owen exCfg 0x12345678 0x9ABCDEF0 = 0xFB1D0B68 ∧ owen exCfg 0x0000FFFF 0x00020001 = 0x35FDAD02 := by decide +kernel

/-- V8 (a): SOBOL of dimension 0 on the reset ROM; the low half of the index is masked off. -/
theorem test_sobol :
    response (ask 0x13 ⟨0xA5A51234, 9, 9, 9⟩ ⟨0, 9, 9, 9⟩) = okay ⟨0x0000A5A5, 0, 0, 0⟩ ∧
      response (ask 0x13 ⟨0xFFFFFFFF, 0, 0, 0⟩ ⟨0, 0, 0, 0⟩) = okay ⟨0x0000FFFF, 0, 0, 0⟩ := by decide +kernel

/-- V8 (b): the fold on EXROM, in closed form and as SB's loop. -/
theorem test_fold :
    fold geometry (exRom 0) 0xA5A51234 2 = some 0x94F5 ∧ foldByLoop geometry (exRom 0) 0xA5A51234 2 = some 0x94F5 ∧
      fold geometry (exRom 1) 0x00018000 5 = some 0xDDD1 ∧ fold geometry (exRom 0) 0xFFFF0000 1 = some 0x8000 := by decide +kernel

/-- V7: TONORM. -/
theorem test_tonorm :
    response (ask 0x14 ⟨0x12345678, 0, 0, 0⟩ vB) = okay ⟨0x3D91A2B0, 0, 0, 0⟩ ∧ tonorm 0x000001FF = 0 ∧
      tonorm 0x00000200 = 0x34000000 ∧ tonorm 0x80000200 = 0x3F000002 ∧ tonorm 0xFFFFFFFF = 0x3F7FFFFE := by
  decide +kernel

/-- V7 through the binary32 subtraction of 44_sampling.md R97. -/
theorem test_tonorm_float :
    tonormFloat 0x12345678 = 0x3D91A2B0 ∧ tonormFloat 0x000001FF = 0 ∧ tonormFloat 0x7FFFFFFF = 0x3EFFFFFC ∧
      tonormFloat 0xFFFFFFFF = 0x3F7FFFFE := by decide +kernel

/-- V12 rows 9 and 18: SAMPLE's pipeline under EXCFG and EXROM. -/
theorem test_sample :
    sample geometry exCfg (exRom 0) 5 2 7 = some 0x3F2E1D6A ∧ sample geometry exCfg (exRom 1) 1 7 0xFFFFFFFF = some 0x3F40ED9A := by
  decide +kernel

/-- V14 rows 1, 4, 14, 17: the dimension check comes before the index check, and an illegal word before both. -/
theorem test_sample_faults :
    response (ask 0x15 ⟨0, 0, 0, 0⟩ ⟨256, 0, 0, 0⟩) = some (.fault .dimensionRange) ∧
      response (ask 0x15 ⟨0, 0, 0, 0⟩ ⟨0xFFFFFFFF, 0, 0, 0⟩) = some (.fault .dimensionRange) ∧
      response (ask 0x15 ⟨0x00010000, 0, 0, 0⟩ ⟨256, 0, 0, 0⟩) = some (.fault .dimensionRange) ∧
      response (ask 0x2015 ⟨0x00010000, 0, 0, 0⟩ ⟨256, 0, 0, 0⟩) = some (.fault .illegalCommand) := by decide +kernel

/-- V14 rows 10 and 13 in the VALIDATING configuration. -/
theorem test_index_range :
    (sampleIndexOutOfRange .validating State.reset (req 0x15 ⟨0x10000, 0, 0, 0⟩ ⟨0, 0, 0, 0⟩) []).delivered =
        [⟨req 0x15 ⟨0x10000, 0, 0, 0⟩ ⟨0, 0, 0, 0⟩, .fault .indexRange⟩] ∧
      (sample4dIndexOutOfRange .validating State.reset (req 0x35 ⟨0x10000, 0, 0, 0⟩ ⟨0, 0, 0, 0⟩) []).delivered =
        [⟨req 0x35 ⟨0x10000, 0, 0, 0⟩ ⟨0, 0, 0, 0⟩, .fault .indexRange⟩] := by decide +kernel

/-- V14 rows 10 and 13 in the FAST configuration: `OK`, one draw for SAMPLE and four for SAMPLE4D. -/
theorem test_index_drawn :
    (sampleIndexOutOfRange .fast State.reset (req 0x15 ⟨0x10000, 0, 0, 0⟩ ⟨0, 0, 0, 0⟩) []).draws = 1 ∧
      (sample4dIndexOutOfRange .fast State.reset (req 0x35 ⟨0x10000, 0, 0, 0⟩ ⟨0, 0, 0, 0⟩) []).draws = 4 :=
  ⟨rfl, rfl⟩

/-- V6. -/
theorem test_i4Add :
    response (ask 0x20 vA vB) = okay ⟨0xFFFFFFFF, 0xFFFFFFFE, 0x00000000, 0xACF13568⟩ ∧
      response (ask 0x20 vA2 vB2) = okay ⟨0x00010002, 0x80000003, 0x00000002, 0x0001FFFE⟩ := by decide +kernel

/-- V6. -/
theorem test_i4Sub :
    response (ask 0x21 vA vB) = okay ⟨0x00000001, 0x00000000, 0x00000000, 0x77777788⟩ ∧
      response (ask 0x21 vA2 vB2) = okay ⟨0xFFFF0000, 0x80000001, 0x00000004, 0x00000000⟩ := by decide +kernel

/-- V6. -/
theorem test_i4Mul :
    response (ask 0x22 vA vB) = okay ⟨0x00000000, 0x00000001, 0x00000000, 0x242D2080⟩ ∧
      response (ask 0x22 vA2 vB2) = okay ⟨0x00010001, 0x00000002, 0xFFFFFFFD, 0xFFFE0001⟩ := by decide +kernel

/-- V6. -/
theorem test_i4And :
    response (ask 0x23 vA vB) = okay ⟨0x00000000, 0xFFFFFFFF, 0x80000000, 0x12345670⟩ := by decide +kernel

/-- V6. -/
theorem test_i4Or :
    response (ask 0x24 vA vB) = okay ⟨0xFFFFFFFF, 0xFFFFFFFF, 0x80000000, 0x9ABCDEF8⟩ := by decide +kernel

/-- V6. -/
theorem test_i4Xor :
    response (ask 0x25 vA vB) = okay ⟨0xFFFFFFFF, 0x00000000, 0x00000000, 0x88888888⟩ := by decide +kernel

/-- V6. -/
theorem test_i4Shl :
    response (ask 0x926 vA vB) = okay ⟨0x00000000, 0xFFFFFE00, 0x00000000, 0x68ACF000⟩ ∧
      response (ask 0x1F26 vA vB) = okay ⟨0x00000000, 0x80000000, 0x00000000, 0x00000000⟩ := by decide +kernel

/-- V6. -/
theorem test_i4Shr :
    response (ask 0x927 vA vB) = okay ⟨0x00000000, 0x007FFFFF, 0x00400000, 0x00091A2B⟩ ∧
      response (ask 0x1F27 vA vB) = okay ⟨0x00000000, 0x00000001, 0x00000001, 0x00000000⟩ := by decide +kernel

/-- V6. -/
theorem test_i4Rev :
    response (ask 0x28 vA vB) = okay ⟨0x00000000, 0xFFFFFFFF, 0x00000001, 0x1E6A2C48⟩ := by decide +kernel

/-- V6. -/
theorem test_i4Tonorm :
    response (ask 0x29 vA vB) = okay ⟨0x00000000, 0x3F7FFFFE, 0x3F000000, 0x3D91A2B0⟩ := by decide +kernel

/-- Every setting of the straps BACKEND and MUL_IMPL. -/
def allDatapaths : List Config.Datapath :=
  [⟨.fallback, .hw⟩, ⟨.fallback, .emulated⟩, ⟨.native, .hw⟩, ⟨.native, .emulated⟩]

/-- V6's two-operand rows, for one setting of the straps. -/
def v6Binary (dp : Config.Datapath) : Bool :=
  i4Add dp vA vB == ⟨0xFFFFFFFF, 0xFFFFFFFE, 0x00000000, 0xACF13568⟩ &&
    i4Sub dp vA vB == ⟨0x00000001, 0x00000000, 0x00000000, 0x77777788⟩ &&
    i4Mul dp vA vB == ⟨0x00000000, 0x00000001, 0x00000000, 0x242D2080⟩ &&
    i4And dp vA vB == ⟨0x00000000, 0xFFFFFFFF, 0x80000000, 0x12345670⟩ &&
    i4Or dp vA vB == ⟨0xFFFFFFFF, 0xFFFFFFFF, 0x80000000, 0x9ABCDEF8⟩ &&
    i4Xor dp vA vB == ⟨0xFFFFFFFF, 0x00000000, 0x00000000, 0x88888888⟩ &&
    i4Mul dp vA2 vB2 == ⟨0x00010001, 0x00000002, 0xFFFFFFFD, 0xFFFE0001⟩

/-- V6's shift, reversal and conversion rows, for one setting of the straps. -/
def v6Unary (dp : Config.Datapath) : Bool :=
  i4Shl dp vA 0 == vA && i4Shl dp vA 31 == ⟨0x00000000, 0x80000000, 0x00000000, 0x00000000⟩ &&
    i4Shl dp vA 9 == ⟨0x00000000, 0xFFFFFE00, 0x00000000, 0x68ACF000⟩ && i4Shr dp vA 0 == vA &&
    i4Shr dp vA 31 == ⟨0x00000000, 0x00000001, 0x00000001, 0x00000000⟩ &&
    i4Shr dp vA 9 == ⟨0x00000000, 0x007FFFFF, 0x00400000, 0x00091A2B⟩ &&
    i4Rev dp vA == ⟨0x00000000, 0xFFFFFFFF, 0x00000001, 0x1E6A2C48⟩ &&
    i4Tonorm dp vA == ⟨0x00000000, 0x3F7FFFFE, 0x3F000000, 0x3D91A2B0⟩

/-- 45_int4.md R124, V6: every operation, both backends, both multipliers. -/
theorem test_v6_every_backend : allDatapaths.all (fun dp => v6Binary dp && v6Unary dp) = true := by decide +kernel

/-- 45_int4.md R124: the backends agree on every boundary input. -/
theorem test_boundary_conformance : allDatapaths.all (boundaryConformance Config.datapath) = true := by decide +kernel

/-- V11: HASH4 under EXCFG. -/
theorem test_hash4 : hash4 Config.datapath exCfg vA = ⟨0x6C77C295, 0x8A3F10C3, hash exCfg 0x80000000, 0x4598EC18⟩ := by
  decide +kernel

/-- V11: OWEN4 under EXCFG. -/
theorem test_owen4 :
    owen4 Config.datapath exCfg ⟨0x00000000, 0x00000001, 0xFFFFFFFF, 0x12345678⟩
        ⟨0x00000000, 0x00000000, 0xFFFFFFFF, 0x9ABCDEF0⟩ =
      ⟨0x00000000, 0x3EAEF8DD, 0x5EDBFD28, 0xFB1D0B68⟩ := by decide +kernel

/-- V10: SOBOL4 on EXROM, both sets it lists. -/
theorem test_sobol4 :
    response { ask 0x33 ⟨0xA5A51234, 9, 9, 9⟩ ⟨1, 9, 9, 9⟩ with rom := exRom 1 } =
        okay ⟨0x0000F9AC, 0x0000FEC4, 0x0000C228, 0x0000BF09⟩ ∧
      fold4ByLoop geometry Config.datapath (exRom 0) 0xA5A51234 0 = some ⟨0x0000A5A5, 0x0000C800, 0x000094F5, 0x0000968D⟩ := by
  decide +kernel

/-- V14 rows 5, 9, 15: the set check. -/
theorem test_set_faults :
    response (ask 0x33 ⟨0x12340000, 0, 0, 0⟩ ⟨64, 0, 0, 0⟩) = some (.fault .dimensionSetRange) ∧
      response (ask 0x35 ⟨0, 0, 0, 0⟩ ⟨64, 0, 0, 0⟩) = some (.fault .dimensionSetRange) ∧
      response (ask 0x35 ⟨0x00010000, 0, 0, 0⟩ ⟨64, 0, 0, 0⟩) = some (.fault .dimensionSetRange) := by decide +kernel

/-- V13, block 5: SAMPLE4D's pipeline under EXCFG and EXROM. -/
theorem test_sample4d :
    sample4d geometry Config.datapath exCfg (exRom 1) 100 1 1 = some ⟨0x3F155028, 0x3E49B718, 0x3ECDA7AC, 0x3A226800⟩ := by
  decide +kernel

/-- 95_test_vectors.md P2, line 1: the encoding of a listing line. -/
theorem test_listing :
    listingRequest .sample4d [.word 5, .word 0, .word 7] = some (req 0x00000035 ⟨5, 0, 0, 0⟩ ⟨0, 7, 0, 0⟩) ∧
      listingRequest (.i4Shl 9) [.vector vA] = some (req 0x00000926 vA ⟨0, 0, 0, 0⟩) ∧
      listingRequest .owen [.word 1] = none := by decide +kernel

/-- Another number of dimensions (00_scope.md R6): the 8 that EXROM defines, in 2 sets. -/
def exGeometry : Config.Geometry := { numDimensions := 8 }

/-- 00_scope.md R6 with 8 dimensions: the constants, and the range checks at their bounds. -/
theorem test_geometry :
    readConst exGeometry 0 = some 8 ∧ readConst exGeometry 1 = some 2 ∧ romWords exGeometry = 128 ∧
      dimensionInRange exGeometry 7 = true ∧ dimensionInRange exGeometry 8 = false ∧
      dimensionSetInRange exGeometry 1 = true ∧ dimensionSetInRange exGeometry 2 = false ∧
      fold exGeometry (exRom 1) 0xA5A51234 7 = some 0xBF09 := by decide +kernel

/-! ## Witnesses: concrete states and operands that meet the hypotheses of each statement -/

/-- A second request, behind the first. -/
def second : Request := req 0x20 vA vB

theorem witness_DecodeOfEncodeIsTheInstruction : (Instr.rdconst 1).wf = true ∧ (Instr.i4Shr 31).wf = true := by decide

theorem witness_EncodeOfDecodeIsTheWord : decode 0x00001F26 = .ok (.i4Shl 31) := rfl

theorem witness_ExactlyEightyFourLegalWords : (∃ i, decode 0x00001F26 = .ok i) ∧ decode 0x00002026 = .error (.reservedBits 1) :=
  ⟨⟨.i4Shl 31, rfl⟩, rfl⟩

/-- One word for each ground of 30_encoding.md R44, and legal words next to them. -/
theorem witness_IllegalCommandsAreAnsweredSo :
    (ask 0x00000036 vA vB).inFlight = [req 0x36 vA vB] ∧ opField 0x36 = 0x36 ∧ rsvField 0x2015 ≠ 0 ∧
      (shField 0x110 ≠ 0 ∧ opField 0x110 = 0x10) ∧ (opField 0x201 = 0x01 ∧ (shField 0x201).toNat = 2) ∧
      (opField 0x101 = 0x01 ∧ (shField 0x101).toNat = 1 ∧ rsvField 0x101 = 0) := by decide

theorem witness_StepRunsTheDecodedInstruction :
    (ask 0x22 vA vB).inFlight = [req 0x22 vA vB] ∧ decode (req 0x22 vA vB).cmd = .ok .i4Mul := ⟨rfl, rfl⟩

/-- Both clauses: a request waiting, and an idle block. -/
theorem witness_StepAnswersTheOldestRequest :
    ((ask 0x22 vA vB).present second).inFlight = [req 0x22 vA vB, second] ∧ State.reset.inFlight = [] := ⟨rfl, rfl⟩

/-- SAMPLE at the last index and dimension. -/
def lastSample : Request := req 0x15 ⟨65535, 0, 0, 0⟩ ⟨255, 0, 0, 0⟩

theorem lastSample_not_open : ∀ i, decode lastSample.cmd = .ok i → responseOpen i lastSample = false := by
  intro i h
  have h' : (Except.ok Instr.sample : Except IllegalCommand Instr) = .ok i := h
  cases h'
  rfl

/-- SAMPLE with the first dimension out of range: not open at an index out of range. -/
theorem firstFault_not_open : responseOpen .sample (req 0x15 ⟨65536, 0, 0, 0⟩ ⟨256, 0, 0, 0⟩) = false := rfl

/-- First clause: the same request with another behind it or not. Second clause: two orders of two requests. -/
theorem witness_RequestsAreIndependent :
    ((State.reset.present lastSample).inFlight = [lastSample] ∧
        ((State.reset.present lastSample).present lastSample).inFlight = [lastSample, lastSample] ∧
        (State.reset.present lastSample).rom = ((State.reset.present lastSample).present lastSample).rom) ∧
      ((State.reset.present lastSample).present (req 0x35 vA ⟨64, 0, 0, 0⟩)).inFlight.Perm
        ((State.reset.present (req 0x35 vA ⟨64, 0, 0, 0⟩)).present lastSample).inFlight ∧
      (∀ r ∈ ((State.reset.present lastSample).present (req 0x35 vA ⟨64, 0, 0, 0⟩)).inFlight,
        ∀ i, decode r.cmd = .ok i → responseOpen i r = false) := by
  refine ⟨⟨rfl, rfl, rfl⟩, List.Perm.swap _ _ _, ?_⟩
  intro r hr i h
  change r ∈ [lastSample, req 0x35 vA ⟨64, 0, 0, 0⟩] at hr
  rw [List.mem_cons, List.mem_singleton] at hr
  rcases hr with rfl | rfl
  · exact lastSample_not_open i h
  · have h' : (Except.ok Instr.sample4d : Except IllegalCommand Instr) = .ok i := h
    cases h'
    rfl

/-- 95_test_vectors.md V14 row 18: unused lanes hold anything. -/
theorem witness_UnusedOperandLanesAreIgnored :
    usedOperandsAgree .sample (req 0x15 ⟨0, 0xFFFFFFFF, 0, 0⟩ ⟨3, 0, 0xFFFFFFFF, 0xFFFFFFFF⟩)
        (req 0x15 ⟨0, 0, 0, 0⟩ ⟨3, 0, 0, 0⟩) = true ∧
      responseOpen .sample (req 0x15 ⟨0, 0xFFFFFFFF, 0, 0⟩ ⟨3, 0, 0xFFFFFFFF, 0xFFFFFFFF⟩) = false := by decide +kernel

/-- Each clause at the boundary values of its ranges. -/
theorem witness_ResponseStatusIsExactly :
    ((ask 0x13 vA ⟨255, 0, 0, 0⟩).inFlight = [req 0x13 vA ⟨255, 0, 0, 0⟩] ∧ decode (req 0x13 vA vB).cmd = .ok .sobol ∧
        (scalar2 (req 0x13 vA ⟨255, 0, 0, 0⟩)).toNat = 255 ∧ (scalar2 (req 0x13 vA ⟨256, 0, 0, 0⟩)).toNat = 256) ∧
      (decode (req 0x33 vA vB).cmd = .ok .sobol4 ∧ (scalar2 (req 0x33 vA ⟨63, 0, 0, 0⟩)).toNat = 63 ∧
        (scalar2 (req 0x33 vA ⟨64, 0, 0, 0⟩)).toNat = 64) ∧
      (decode (req 0x15 vA vB).cmd = .ok .sample ∧ (scalar1 (req 0x15 ⟨65535, 0, 0, 0⟩ vB)).toNat = 65535 ∧
        (scalar1 (req 0x15 ⟨65536, 0, 0, 0⟩ vB)).toNat = 65536) ∧
      decode (req 0x35 vA vB).cmd = .ok .sample4d ∧ decode (req 0x00 vA vB).cmd = .error (.unassignedOp 0) :=
  ⟨⟨rfl, rfl, rfl, rfl⟩, ⟨rfl, rfl, rfl⟩, ⟨rfl, rfl, rfl⟩, rfl, rfl⟩

/-- A request that faults, and the state after it. -/
theorem witness_FaultLeavesNothingBehind :
    (ask 0x13 vA ⟨256, 0, 0, 0⟩).inFlight = [req 0x13 vA ⟨256, 0, 0, 0⟩] ∧
      step (ask 0x13 vA ⟨256, 0, 0, 0⟩) =
        .next (complete (ask 0x13 vA ⟨256, 0, 0, 0⟩) (req 0x13 vA ⟨256, 0, 0, 0⟩) [] (.fault .dimensionRange)) :=
  ⟨rfl, rfl⟩

theorem witness_InRangeRunsNeverGoWrong :
    wentWrong (ask 0x15 ⟨65535, 0, 0, 0⟩ ⟨255, 0, 0, 0⟩) = false ∧
      (∀ r ∈ (ask 0x15 ⟨65535, 0, 0, 0⟩ ⟨255, 0, 0, 0⟩).inFlight, requestInRange r = true) ∧
      requestInRange (req 0x35 ⟨65535, 0, 0, 0⟩ ⟨63, 0, 0, 0⟩) = true := by decide +kernel

/-- A state with the invariant that a request waits in, and one that has answered a request. -/
theorem witness_StepKeepsTheInvariant :
    machineInvariant (ask 0x01 vA vB) = true ∧
      step (ask 0x01 vA vB) = .next (complete (ask 0x01 vA vB) (req 0x01 vA vB) [] (.ok (pack ⟨256, 0, 0, 0⟩))) ∧
      machineInvariant (complete (ask 0x01 vA vB) (req 0x01 vA vB) [] (.ok (pack ⟨256, 0, 0, 0⟩))) = true :=
  ⟨rfl, rfl, rfl⟩

theorem witness_RomReadsTheImageForAllTime :
    romIntact (ask 0x01 vA vB) = true ∧
      Host.Core.run Sys2Proof.core 1 (ask 0x01 vA vB) =
        .next (complete (ask 0x01 vA vB) (req 0x01 vA vB) [] (.ok (pack ⟨256, 0, 0, 0⟩))) := ⟨rfl, rfl⟩

theorem witness_ResetDropsRequestsInFlight : romIntact (ask 0x22 vA vB) = true ∧ (ask 0x22 vA vB).inFlight.length = 1 := by
  decide +kernel

theorem witness_ExecChangesNothingElse :
    exec (.rdconst 0) (ask 0x01 vA vB) =
        .next (complete (ask 0x01 vA vB) (req 0x01 vA vB) [] (.ok (pack ⟨256, 0, 0, 0⟩))) ∧
      responseOpen (.rdconst 0) (req 0x01 vA vB) = false := ⟨rfl, rfl⟩

/-- The last legal selector, and the first illegal one. -/
theorem witness_RdconstGivesTheConstants :
    (ask 0x101 vA vB).inFlight = [req 0x101 vA vB] ∧ (shField (req 0x201 vA vB).cmd).toNat = 2 ∧
      opField (req 0x201 vA vB).cmd = 0x01 ∧ (ask 0x201 vA vB).inFlight = [req 0x201 vA vB] := by decide

theorem witness_Rev32ReversesTheBits : (ask 0x10 vA vB).inFlight = [req 0x10 vA vB] := rfl

theorem witness_HashGivesTheFiveMixSteps : (ask 0x11 vA vB).inFlight = [req 0x11 vA vB] := rfl

theorem witness_OwenGivesTheFiveSteps : (ask 0x12 vA vB).inFlight = [req 0x12 vA vB] := rfl

/-- Both sides of the range check. -/
theorem witness_SobolFoldsTheSelectedLevels :
    (ask 0x13 vA ⟨255, 0, 0, 0⟩).inFlight = [req 0x13 vA ⟨255, 0, 0, 0⟩] ∧
      (scalar2 (req 0x13 vA ⟨255, 0, 0, 0⟩)).toNat = 255 ∧ (scalar2 (req 0x13 vA ⟨256, 0, 0, 0⟩)).toNat = 256 :=
  ⟨rfl, rfl, rfl⟩

/-- Both sides of the range check. -/
theorem witness_Sobol4FoldsTheSelectedRows :
    (ask 0x33 vA ⟨63, 0, 0, 0⟩).inFlight = [req 0x33 vA ⟨63, 0, 0, 0⟩] ∧
      (scalar2 (req 0x33 vA ⟨63, 0, 0, 0⟩)).toNat = 63 ∧ (scalar2 (req 0x33 vA ⟨64, 0, 0, 0⟩)).toNat = 64 :=
  ⟨rfl, rfl, rfl⟩

/-- Both sides of both range checks. -/
theorem witness_RangeFaultsExactlyOutOfRange :
    (ask 0x15 vA ⟨256, 0, 0, 0⟩).inFlight = [req 0x15 vA ⟨256, 0, 0, 0⟩] ∧
      (scalar2 (req 0x15 vA ⟨256, 0, 0, 0⟩)).toNat = 256 ∧ (scalar2 (req 0x15 vA ⟨255, 0, 0, 0⟩)).toNat = 255 ∧
      (scalar2 (req 0x35 vA ⟨64, 0, 0, 0⟩)).toNat = 64 ∧ (scalar2 (req 0x35 vA ⟨63, 0, 0, 0⟩)).toNat = 63 :=
  ⟨rfl, rfl, rfl, rfl, rfl⟩

theorem witness_TonormIsExactlyTheFraction : (ask 0x14 vA vB).inFlight = [req 0x14 vA vB] := rfl

/-- The last index and the last dimension. -/
theorem witness_SampleRunsThePipeline :
    (ask 0x15 ⟨65535, 0, 0, 0⟩ ⟨255, 7, 0, 0⟩).inFlight = [req 0x15 ⟨65535, 0, 0, 0⟩ ⟨255, 7, 0, 0⟩] ∧
      (scalar2 (req 0x15 ⟨65535, 0, 0, 0⟩ ⟨255, 7, 0, 0⟩)).toNat < 256 ∧
      (scalar1 (req 0x15 ⟨65535, 0, 0, 0⟩ ⟨255, 7, 0, 0⟩)).toNat < 65536 := ⟨rfl, by decide +kernel, by decide +kernel⟩

/-- The first index out of range, with the last dimension and the last set. -/
theorem witness_IndexOutOfRangeIsFaultOrDraw :
    (ask 0x15 ⟨65536, 0, 0, 0⟩ ⟨255, 0, 0, 0⟩).inFlight = [req 0x15 ⟨65536, 0, 0, 0⟩ ⟨255, 0, 0, 0⟩] ∧
      65536 ≤ (scalar1 (req 0x15 ⟨65536, 0, 0, 0⟩ ⟨255, 0, 0, 0⟩)).toNat ∧
      (scalar2 (req 0x15 ⟨65536, 0, 0, 0⟩ ⟨255, 0, 0, 0⟩)).toNat < 256 ∧
      65536 ≤ (scalar1 (req 0x35 ⟨65536, 0, 0, 0⟩ ⟨63, 0, 0, 0⟩)).toNat ∧
      (scalar2 (req 0x35 ⟨65536, 0, 0, 0⟩ ⟨63, 0, 0, 0⟩)).toNat < 64 :=
  ⟨rfl, by decide +kernel, by decide +kernel, by decide +kernel, by decide +kernel⟩

theorem witness_Int4ArithmeticWrapsPerLane : (ask 0x20 vA vB).inFlight = [req 0x20 vA vB] := rfl

theorem witness_Int4BitwiseIsBitByBit : (ask 0x23 vA vB).inFlight = [req 0x23 vA vB] := rfl

theorem witness_Int4ShiftsAreLogical : (ask 0x1F26 vA vB).inFlight = [req 0x1F26 vA vB] := rfl

theorem witness_Int4RevAndTonormPerLane : (ask 0x28 vA vB).inFlight = [req 0x28 vA vB] := rfl

/-- Lane 3 of the wide operands, and the scalar request with it. -/
theorem witness_WideScramblerIsScalarPerLane :
    (ask 0x31 vA vB).inFlight = [req 0x31 vA vB] ∧
      scalar1 (req 0x11 ⟨vA.l3, 0, 0, 0⟩ ⟨vB.l3, 0, 0, 0⟩) = (operandA (req 0x31 vA vB)).lane 3 ∧
      scalar2 (req 0x11 ⟨vA.l3, 0, 0, 0⟩ ⟨vB.l3, 0, 0, 0⟩) = (operandB (req 0x31 vA vB)).lane 3 := by decide +kernel

/-- The last set and its last dimension. -/
theorem witness_Sobol4EqualsFourSobols :
    (ask 0x33 vA ⟨63, 0, 0, 0⟩).inFlight = [req 0x33 vA ⟨63, 0, 0, 0⟩] ∧
      (scalar2 (req 0x33 vA ⟨63, 0, 0, 0⟩)).toNat < 64 ∧ (ask 0x13 vA ⟨255, 0, 0, 0⟩).rom = (ask 0x33 vA ⟨63, 0, 0, 0⟩).rom ∧
      scalar1 (req 0x13 vA ⟨255, 0, 0, 0⟩) = scalar1 (req 0x33 vA ⟨63, 0, 0, 0⟩) ∧
      (scalar2 (req 0x13 vA ⟨255, 0, 0, 0⟩)).toNat = 4 * (scalar2 (req 0x33 vA ⟨63, 0, 0, 0⟩)).toNat + (3 : Fin 4).val := by
  decide +kernel

/-- Both clauses at the bound 2^30, and both answers of the first. -/
theorem witness_Sobol4FaultsWithItsSobols :
    (ask 0x33 vA ⟨0x3FFFFFFF, 0, 0, 0⟩).inFlight = [req 0x33 vA ⟨0x3FFFFFFF, 0, 0, 0⟩] ∧
      (scalar2 (req 0x13 vA ⟨0xFFFFFFFF, 0, 0, 0⟩)).toNat =
        4 * (scalar2 (req 0x33 vA ⟨0x3FFFFFFF, 0, 0, 0⟩)).toNat + (3 : Fin 4).val ∧
      (scalar2 (req 0x33 vA ⟨0x40000000, 0, 0, 0⟩)).toNat = 2 ^ 30 ∧
      (scalar2 (req 0x13 vA ⟨255, 0, 0, 0⟩)).toNat = 4 * (scalar2 (req 0x33 vA ⟨63, 0, 0, 0⟩)).toNat + (3 : Fin 4).val := by
  decide +kernel

/-- The last set, its last dimension and the last index. -/
theorem witness_Sample4dEqualsFourSamples :
    (ask 0x35 ⟨65535, 0, 0, 0⟩ ⟨63, 7, 0, 0⟩).inFlight = [req 0x35 ⟨65535, 0, 0, 0⟩ ⟨63, 7, 0, 0⟩] ∧
      (scalar2 (req 0x35 ⟨65535, 0, 0, 0⟩ ⟨63, 7, 0, 0⟩)).toNat < 64 ∧
      (scalar1 (req 0x35 ⟨65535, 0, 0, 0⟩ ⟨63, 7, 0, 0⟩)).toNat < 65536 ∧
      (scalar2 (req 0x15 ⟨65535, 0, 0, 0⟩ ⟨255, 7, 0, 0⟩)).toNat =
        4 * (scalar2 (req 0x35 ⟨65535, 0, 0, 0⟩ ⟨63, 7, 0, 0⟩)).toNat + (3 : Fin 4).val ∧
      scalar3 (req 0x15 ⟨65535, 0, 0, 0⟩ ⟨255, 7, 0, 0⟩) = scalar3 (req 0x35 ⟨65535, 0, 0, 0⟩ ⟨63, 7, 0, 0⟩) := by
  decide +kernel

/-- The clause with a bound, at the largest amount. -/
theorem witness_Rev32Laws : (31 : Nat) < 32 ∧ rev32 (1 <<< 31) = rev32 1 >>> 31 := by decide +kernel

/-- The steps of 43_hash_owen.md R82's own trace of `mix 1`. -/
theorem witness_MixIsABijection :
    (0x00000001 : Word) = 1 ^^^ (1 >>> 16) ∧ (0x7FEB352D : Word) = 0x00000001 * 0x7feb352d ∧
      (0x7FEBCAFB : Word) = 0x7FEB352D ^^^ (0x7FEB352D >>> 15) ∧ (0x6889F849 : Word) = 0x7FEBCAFB * 0x846ca68b := by
  decide +kernel

/-- The clause with a bound, at the largest bit: V5's two operands that agree in bits 19:0. -/
theorem witness_OwenPermutesLowBits :
    (31 : Nat) < 32 ∧ (0x00000005 : Word).toNat % 2 ^ 20 = (0xFFF00005 : Word).toNat % 2 ^ 20 ∧
      (owen exCfg 0x00000005 0x9ABCDEF0).toNat % 2 ^ 20 = 0x6A21D ∧
      (owen exCfg 0xFFF00005 0x9ABCDEF0).toNat % 2 ^ 20 = 0x6A21D := by decide +kernel

/-- A second geometry, with a request at each side of each bound. -/
theorem witness_EveryNumberOfDimensions :
    exGeometry.numDimensions = 8 ∧ exGeometry.numDimensionSets4D = 2 ∧
      (ask 0x15 ⟨65535, 0, 0, 0⟩ ⟨7, 0, 0, 0⟩).inFlight = [req 0x15 ⟨65535, 0, 0, 0⟩ ⟨7, 0, 0, 0⟩] ∧
      (scalar2 (req 0x15 ⟨65535, 0, 0, 0⟩ ⟨7, 0, 0, 0⟩)).toNat = 7 ∧
      (scalar1 (req 0x15 ⟨65535, 0, 0, 0⟩ ⟨7, 0, 0, 0⟩)).toNat = 65535 ∧
      (scalar1 (req 0x15 ⟨65536, 0, 0, 0⟩ ⟨7, 0, 0, 0⟩)).toNat = 65536 ∧
      (scalar2 (req 0x15 vA ⟨8, 0, 0, 0⟩)).toNat = 8 ∧ (scalar2 (req 0x35 vA ⟨1, 0, 0, 0⟩)).toNat = 1 ∧
      (scalar2 (req 0x35 vA ⟨2, 0, 0, 0⟩)).toNat = 2 := by decide +kernel

/-- The suite compares all nine pairs of boundary values at both amounts. -/
theorem witness_ConformanceSuitePasses :
    boundaryOperands.length = 9 ∧ (0x80000000 : Word) ∈ boundaryLanes ∧ (31 : BitVec 5) ∈ boundaryShifts := by decide

theorem witness_DifferentSeedsGiveDifferentHashedKeys : (0 : Word) ≠ 0xFFFFFFFF := by decide

/-- The last word of the ROM, and the last level of the last dimension. -/
theorem witness_FoldAddressesAreInRange :
    63 < geometry.numDimensionSets4D ∧ (15 : Nat) < 16 ∧ (3 : Nat) < 4 ∧ waddr 63 15 3 = 4095 ∧
      (255 : Word).toNat < geometry.numDimensions := by decide

theorem witness_RowReadIsFourWordReads : 63 < geometry.numDimensionSets4D ∧ (15 : Nat) < 16 ∧ raddr 63 15 = 1023 := by decide

theorem witness_LoopFoldEqualsClosedForm :
    (255 : Word).toNat < geometry.numDimensions ∧ (63 : Word).toNat < geometry.numDimensionSets4D := by decide

theorem witness_FoldMasksAndIsLinear : (255 : Word).toNat < geometry.numDimensions := by decide

/-- Both sides of `16 <= p`, with the last dimension and the last set. -/
theorem witness_OneHotIndexReadsTheRom :
    (ask 0x13 ⟨0x00010000, 0, 0, 0⟩ ⟨255, 0, 0, 0⟩).inFlight = [req 0x13 ⟨0x00010000, 0, 0, 0⟩ ⟨255, 0, 0, 0⟩] ∧
      scalar1 (req 0x13 ⟨0x00010000, 0, 0, 0⟩ ⟨255, 0, 0, 0⟩) = (1 : Word) <<< 16 ∧
      scalar1 (req 0x33 ⟨0x00008000, 0, 0, 0⟩ ⟨63, 0, 0, 0⟩) = (1 : Word) <<< 15 ∧
      scalar1 (req 0x33 ⟨0x80000000, 0, 0, 0⟩ ⟨63, 0, 0, 0⟩) = (1 : Word) <<< 31 ∧
      (scalar2 (req 0x13 ⟨0x00010000, 0, 0, 0⟩ ⟨255, 0, 0, 0⟩)).toNat < 256 ∧
      (scalar2 (req 0x33 ⟨0x80000000, 0, 0, 0⟩ ⟨63, 0, 0, 0⟩)).toNat < 64 := by decide +kernel

/-- Each clause: the last level; dimension 0 on the intact ROM; the last index. -/
theorem witness_DimensionZeroIsTheIdentity :
    (15 : Nat) < 16 ∧ romIntact (ask 0x13 vA ⟨0, 0, 0, 0⟩) = true ∧ scalar2 (req 0x13 vA ⟨0, 0, 0, 0⟩) = 0 ∧
      (0xFFFF : Word).toNat < 65536 ∧ fold geometry [] (rev32 0xFFFF) 0 = some 0xFFFF := by decide +kernel

theorem witness_StoredWordsAreTriangular :
    (15 : Nat) < 16 ∧ 2 ^ 15 ≤ (storedOfRecord 32 { s := 2, a := 1, m := [1, 3] } 15).toNat ∧ (63 : Nat) < 64 ∧ (3 : Nat) < 4 := by
  decide +kernel

theorem witness_StoredWordsIndependentOfWidth :
    16 ≤ 16 ∧ (15 : Nat) < 16 ∧
      storedOfRecord 64 { s := 2, a := 1, m := [1, 3] } 15 = storedOfRecord 16 { s := 2, a := 1, m := [1, 3] } 15 := by
  decide +kernel

/-- Two indices that agree at level 15 and differ below it. -/
theorem witness_FoldIsTriangular :
    (255 : Word).toNat < 256 ∧ (15 : Nat) < 16 ∧
      ∀ l < 16, 15 ≤ l → (0x80010000 : Word).getLsbD (31 - l) = (0x00010000 : Word).getLsbD (31 - l) := by decide +kernel

theorem witness_EachDimensionIsABijection : (255 : Word).toNat < 256 ∧ (65535 : Nat) < 65536 := by decide

/-- The last block of 16 indices, its last interval; and the block of all 65536. -/
theorem witness_SamplesAreStratified :
    (255 : Word).toNat < 256 ∧ (4 : Nat) ≤ 16 ∧ 4095 < 2 ^ (16 - 4) ∧ 15 < 2 ^ 4 ∧ 0 < 2 ^ (16 - 16) ∧ 65535 < 2 ^ 16 := by
  decide

end Sys2Proof.Tests
end

/-!
PROOFS. The ROM while nothing is listed in it, the exposed constants, and the state reset leaves (10_state.md R17, R19).
-/
namespace Sys2Proof.Machine

/-- The ROM of a state is intact exactly when its list is empty. -/
theorem romIntact_iff {s : State} : romIntact s = true ↔ s.rom = [] := List.isEmpty_iff

/-- Every word of an intact ROM reads `DV_IMAGE[g][l][k]`, whatever else the state holds. -/
theorem readWord_waddr_of_romIntact {s : State} (hs : romIntact s = true) {geo : Config.Geometry} {g l k : Nat}
    (hg : g < geo.numDimensionSets4D) (hl : l < 16) (hk : k < 4) :
    s.rom.readWord geo (waddr g l k) = some (dvImage g l k) := by
  rw [romIntact_iff.mp hs, readWord_nil (waddr_lt hg hl hk), imageWord_waddr hl hk]

/-- Dimension 0 is lane 0 of set 0: its word at level `l` is `1 << l` (40_dvtable.md R57). -/
theorem dvImage_dimension_zero (l : Nat) : dvImage 0 l 0 = (1 : Word) <<< l := by
  rw [dvImage, storedWord, if_pos rfl]

theorem readConst_numDimensions (geo : Config.Geometry) :
    readConst geo 0 = some (BitVec.ofNat 32 geo.numDimensions) := rfl

theorem readConst_numDimensionSets4D (geo : Config.Geometry) :
    readConst geo 1 = some (BitVec.ofNat 32 geo.numDimensionSets4D) := rfl

theorem romIntact_reset : romIntact State.reset = true := romIntact_iff.mpr reset_rom

/-- Settles O19: reset lists nothing in the ROM, so every word address inside it reads the image's word. -/
theorem resetLeavesAnIdleBlock : Obligations.ResetLeavesAnIdleBlock := by
  have image : ∀ g < 64, ∀ l < 16, ∀ k < 4,
      State.reset.rom.readWord Config.geometry (waddr g l k) = some (dvImage g l k) :=
    fun _ hg _ hl _ hk => readWord_waddr_of_romIntact romIntact_reset hg hl hk
  refine ⟨reset_inFlight, romIntact_reset, image, fun l hl => ?_, readConst_numDimensions _,
    readConst_numDimensionSets4D _⟩
  rw [image 0 (by decide) l hl 0 (by decide), dvImage_dimension_zero]

end Sys2Proof.Machine

/-!
PROOFS. How an `Int4` stands in 128 bits, the ROM's linear addresses, and the row read (20_memory.md R22, R24, R26, R28).
-/
namespace Sys2Proof.Machine

/-- Lane `k` of the `Int4` carried by 128 bits is the 32 bits from bit `32k` up. -/
@[simp] theorem lane_unpack (v : Wide) (k : Fin 4) : (unpack v).lane k = v.extractLsb' (32 * k.val) 32 := by
  match k with
  | 0 | 1 | 2 | 3 => rfl

/-- Bit `j` of lane `k` stands at bit `32k + j` of the packed value. -/
theorem getLsbD_pack (v : Int4) (k : Fin 4) {j : Nat} (hj : j < 32) :
    (pack v).getLsbD (32 * k.val + j) = (v.lane k).getLsbD j := by
  conv_rhs => rw [← unpack_pack v, lane_unpack, BitVec.getLsbD_extractLsb']
  simp [hj]

/-- Packing loses nothing: every bit of a 128-bit value is bit `i % 32` of lane `i / 32`. -/
@[simp] theorem pack_unpack (v : Wide) : pack (unpack v) = v := by
  apply BitVec.eq_of_getLsbD_eq
  intro i hi
  have hlane : i / 32 < 4 := by omega
  have hbit : i % 32 < 32 := Nat.mod_lt _ (by decide)
  have hsplit : 32 * (i / 32) + i % 32 = i := Nat.div_add_mod i 32
  have hpack := getLsbD_pack (unpack v) ⟨i / 32, hlane⟩ hbit
  rw [lane_unpack, BitVec.getLsbD_extractLsb'] at hpack
  simpa only [hsplit, hbit, decide_true, Bool.true_and] using hpack

/-- Settles O7: each lane is its 32 bits, and packing and unpacking undo each other. -/
theorem lanesStandInPortBits : Obligations.LanesStandInPortBits :=
  ⟨lane_unpack, pack_unpack, unpack_pack⟩

/-- Word `k` of a row is word `4 * raddr + k` of the ROM (20_memory.md R22). -/
theorem waddr_eq_raddr (g l k : Nat) : waddr g l k = raddr g l * 4 + k := rfl

/-- The set is the word address from bit 6 up. -/
theorem waddr_div_64 (g : Nat) {l k : Nat} (hl : l < 16) (hk : k < 4) : waddr g l k / 64 = g := by
  unfold waddr; omega

/-- The level is bits 5:2 of the word address. -/
theorem waddr_div_4_mod_16 (g : Nat) {l k : Nat} (hl : l < 16) (hk : k < 4) : waddr g l k / 4 % 16 = l := by
  unfold waddr; omega

/-- The lane is bits 1:0 of the word address. -/
theorem waddr_mod_4 (g l : Nat) {k : Nat} (hk : k < 4) : waddr g l k % 4 = k := by
  unfold waddr; omega

/-- Sixteen rows to a dimension set. -/
theorem raddr_lt {sets g l : Nat} (hg : g < sets) (hl : l < 16) : raddr g l < sets * 16 := by
  unfold raddr; omega

/-- The word address a fold presents for dimension `d` at level `l`: set `d / 4`, lane `d % 4` (20_memory.md R22). -/
theorem waddr_of_dimension (d : Word) (l : Nat) :
    waddr (groupOf d).toNat l (laneOf d) = (d.toNat / 4) * 64 + l * 4 + d.toNat % 4 := by
  simp only [waddr, groupOf, laneOf, BitVec.toNat_ushiftRight, Nat.shiftRight_eq_div_pow]
  omega

/-- Settles O47: the address laws, for the words of every set and then for the words of every dimension. -/
theorem foldAddressesAreInRange : Obligations.FoldAddressesAreInRange := by
  refine ⟨romWords_geometry, rfl, rfl, fun geo => ⟨romWords_eq geo, ?sets, ?dimensions⟩⟩
  case sets =>
    intro g l k hg hl hk
    exact ⟨rfl, rfl, waddr_eq_raddr g l k, romWords_eq geo ▸ waddr_lt hg hl hk, raddr_lt hg hl,
      waddr_div_64 g hl hk, waddr_div_4_mod_16 g hl hk, waddr_mod_4 g l hk⟩
  case dimensions =>
    intro d l hd hl
    exact ⟨waddr_of_dimension d l, romWords_eq geo ▸ waddr_lt (groupOf_lt hd) hl (laneOf d).isLt,
      fun rom => ⟨_, dimensionWord_eq rom hd hl⟩⟩

/-- If a row's four words read, the row reads, with word `k` in lane `k` (20_memory.md R24). -/
theorem exists_readRow_of_words {geo : Config.Geometry} {m : Memory} {row : Nat} {w : Fin 4 → Word}
    (h : ∀ k : Fin 4, m.readWord geo (row * 4 + k) = some (w k)) :
    ∃ v : Int4, m.readRow geo row = some v ∧ ∀ k : Fin 4, v.lane k = w k := by
  refine ⟨_, readRow_of_words h, fun k => ?_⟩
  match k with
  | 0 | 1 | 2 | 3 => rfl

/-- Settles O48: the four words of a row in range read, so the row reads and carries them. -/
theorem rowReadIsFourWordReads : Obligations.RowReadIsFourWordReads := by
  intro geo rom g l hg hl
  have words := fun k : Fin 4 => readWord_of_lt rom (waddr_lt hg hl k.isLt)
  obtain ⟨v, hrow, hlane⟩ := exists_readRow_of_words (row := raddr g l) words
  exact ⟨v, hrow, fun k => by rw [words k, hlane k]⟩

end Sys2Proof.Machine

/-!
PROOFS. The rows of the opcode map read field by field, and which command words are illegal (30_encoding.md R43, R44;
60_exceptions.md R138).
-/
namespace Sys2Proof.Machine

/-- The fields `RSV`, `SH` and `OP` make up the whole command word (30_encoding.md R37). -/
theorem command_eq_append_fields (cmd : Word) : cmd = (rsvField cmd ++ shField cmd ++ opField cmd).cast (by decide) := by
  apply BitVec.eq_of_getLsbD_eq
  intro i hi
  simp only [rsvField, shField, opField, BitVec.getLsbD_cast, BitVec.getLsbD_append, BitVec.getLsbD_extractLsb']
  split_ifs with hop hsh
  · simp [hop]
  · simp [hsh, show 8 + (i - 8) = i by omega]
  · simp [show i - 8 - 5 < 19 by omega, show 13 + (i - 8 - 5) = i by omega]

/-- Two command words are equal when their fields are. -/
theorem command_eq_iff (x y : Word) :
    x = y ↔ opField x = opField y ∧ rsvField x = rsvField y ∧ shField x = shField y := by
  constructor
  · rintro rfl
    exact ⟨rfl, rfl, rfl⟩
  · rintro ⟨hop, hrsv, hsh⟩
    rw [command_eq_append_fields x, command_eq_append_fields y, hop, hrsv, hsh]

@[simp] theorem opField_and (x y : Word) : opField (x &&& y) = opField x &&& opField y := BitVec.extractLsb'_and

@[simp] theorem shField_and (x y : Word) : shField (x &&& y) = shField x &&& shField y := BitVec.extractLsb'_and

@[simp] theorem rsvField_and (x y : Word) : rsvField (x &&& y) = rsvField x &&& rsvField y := BitVec.extractLsb'_and

/-- The `OP` codes of the opcode map, in its order (30_encoding.md R43). -/
def assignedOps : List (BitVec 8) :=
  [0x01, 0x10, 0x11, 0x12, 0x13, 0x14, 0x15, 0x20, 0x21, 0x22, 0x23, 0x24, 0x25, 0x26, 0x27, 0x28,
    0x29, 0x31, 0x32, 0x33, 0x35]

theorem opcodeTable_map_opField : opcodeTable.map (fun row => opField row.bits) = assignedOps := by decide

/-- The bits of `SH` that the opcode map fixes at 0: all but the lowest for RDCONST, none for the two shifts, all for every
other operation (30_encoding.md R43). -/
def fixedShBits (op : BitVec 8) : BitVec 5 :=
  if op = 0x01 then 0x1E else if op = 0x26 ∨ op = 0x27 then 0 else BitVec.allOnes 5

/-- Every row of the opcode map fixes `OP`, fixes `RSV` at 0, and fixes at 0 the bits `fixedShBits` of `SH`. -/
theorem opcodeTable_fields : ∀ row ∈ opcodeTable,
    (opField row.mask = BitVec.allOnes 8 ∧ rsvField row.mask = BitVec.allOnes 19 ∧
        shField row.mask = fixedShBits (opField row.bits)) ∧
      rsvField row.bits = 0 ∧ shField row.bits = 0 := by decide

/-- A word selects a row of the opcode map when it has the row's `OP` and 0 in the bits the row fixes at 0. -/
theorem selects_iff {row : OpcodeRow} (hrow : row ∈ opcodeTable) (cmd : Word) :
    row.selects cmd = true ↔
      opField cmd = opField row.bits ∧ rsvField cmd = 0 ∧ shField cmd &&& fixedShBits (opField row.bits) = 0 := by
  obtain ⟨⟨hop, hrsv, hsh⟩, hrsvBits, hshBits⟩ := opcodeTable_fields row hrow
  rw [OpcodeRow.selects, beq_iff_eq, command_eq_iff, opField_and, rsvField_and, shField_and, hop, hrsv, hsh, hrsvBits,
    hshBits, BitVec.and_allOnes, BitVec.and_allOnes]

/-- A word decodes exactly when it selects some row of the opcode map. -/
theorem decode_ok_iff_selects (cmd : Word) :
    (∃ i, decode cmd = .ok i) ↔ ∃ row ∈ opcodeTable, row.selects cmd = true := by
  rw [← List.find?_isSome, decode]
  cases opcodeTable.find? fun row => row.selects cmd <;> simp

/-- A word decodes exactly when its `OP` is assigned, its `RSV` is 0 and its `SH` is 0 where its row says so. -/
theorem decode_ok_iff_fields (cmd : Word) :
    (∃ i, decode cmd = .ok i) ↔
      opField cmd ∈ assignedOps ∧ rsvField cmd = 0 ∧ shField cmd &&& fixedShBits (opField cmd) = 0 := by
  rw [decode_ok_iff_selects, ← opcodeTable_map_opField, List.mem_map]
  constructor
  · rintro ⟨row, hrow, hsel⟩
    obtain ⟨hop, hrsv, hsh⟩ := (selects_iff hrow cmd).mp hsel
    exact ⟨⟨row, hrow, hop.symm⟩, hrsv, hop ▸ hsh⟩
  · rintro ⟨⟨row, hrow, hop⟩, hrsv, hsh⟩
    exact ⟨row, hrow, (selects_iff hrow cmd).mpr ⟨hop.symm, hrsv, hop ▸ hsh⟩⟩

/-- The selectors of 2 or more are those with one of the upper four bits set. -/
theorem selector_and_ne_zero_iff (sel : BitVec 5) : sel &&& 0x1E ≠ 0 ↔ 2 ≤ sel.toNat := by
  revert sel
  decide

/-- `SH` breaks what the row of `op` fixes in one of two ways: nonzero where the row says 0, or an RDCONST selector of 2 or
more. -/
theorem shField_and_fixedShBits_ne_zero_iff (op : BitVec 8) (sh : BitVec 5) :
    sh &&& fixedShBits op ≠ 0 ↔
      (sh ≠ 0 ∧ op ≠ 0x01 ∧ op ≠ 0x26 ∧ op ≠ 0x27) ∨ (op = 0x01 ∧ 2 ≤ sh.toNat) := by
  unfold fixedShBits
  split_ifs with hconst hshift
  · rw [selector_and_ne_zero_iff]
    tauto
  · rcases hshift with rfl | rfl <;> simp
  · rw [BitVec.and_allOnes]
    tauto

/-- The four grounds on which a command word is illegal (30_encoding.md R44). -/
def IllegalByFields (cmd : Word) : Prop :=
  opField cmd ∉ assignedOps ∨ rsvField cmd ≠ 0 ∨
    (shField cmd ≠ 0 ∧ opField cmd ≠ 0x01 ∧ opField cmd ≠ 0x26 ∧ opField cmd ≠ 0x27) ∨
    (opField cmd = 0x01 ∧ 2 ≤ (shField cmd).toNat)

/-- The four grounds are all there are: on none of them a word decodes, and every other word does. -/
theorem illegalByFields_iff (cmd : Word) : IllegalByFields cmd ↔ ¬∃ i, decode cmd = .ok i := by
  rw [decode_ok_iff_fields, IllegalByFields, ← shField_and_fixedShBits_ne_zero_iff, not_and_or, not_and_or]

/-- The oldest request in flight is answered ILLEGAL_COMMAND when its command word does not decode. -/
theorem step_of_not_decode_ok {s : State} {r : Request} {rest : List Request} (h : s.inFlight = r :: rest)
    (hd : ¬∃ i, decode r.cmd = .ok i) : step s = .next (complete s r rest (.fault .illegalCommand)) := by
  rw [step_cons h]
  cases hdec : decode r.cmd with
  | ok i => exact absurd ⟨i, hdec⟩ hd
  | error _ => rfl

/-- Settles O5: the four grounds are exactly the words that do not decode, and the step answers those ILLEGAL_COMMAND. -/
theorem illegalCommandsAreAnsweredSo : Obligations.IllegalCommandsAreAnsweredSo := by
  intro s r rest h
  split
  next hillegal => exact ⟨step_of_not_decode_ok h ((illegalByFields_iff r.cmd).mp hillegal), rfl⟩
  next hlegal => exact not_not.mp (mt (illegalByFields_iff r.cmd).mpr hlegal)

end Sys2Proof.Machine

/-!
PROOFS. What a run keeps, and the ROM that every run reads (40_dvtable.md R68; 20_memory.md R32).
-/
namespace Sys2Proof.Machine

/-- A run of one step more that answers a next state took a first step, and ran on from there. -/
theorem run_succ_eq_next {n : Nat} {s t : State} (h : Host.Core.run Sys2Proof.core (n + 1) s = .next t) :
    ∃ u, step s = .next u ∧ Host.Core.run Sys2Proof.core n u = .next t := by
  cases hq : s.inFlight with
  | nil => exact ⟨s, step_idle hq, run_succ n (step_idle hq) ▸ h⟩
  | cons r rest =>
    obtain ⟨u, hu, -⟩ := step_answers hq
    exact ⟨u, hu, run_succ n hu ▸ h⟩

/-- What every step keeps, every run keeps. -/
theorem run_keeps {P : State → Prop} (hstep : ∀ {s t : State}, step s = .next t → P s → P t) {n : Nat} {s t : State}
    (hrun : Host.Core.run Sys2Proof.core n s = .next t) (hs : P s) : P t := by
  induction n generalizing s with
  | zero =>
    cases hrun
    exact hs
  | succ n ih =>
    obtain ⟨u, hu, hrest⟩ := run_succ_eq_next hrun
    exact ih hrest (hstep hu hs)

/-- No run changes the ROM. -/
theorem run_rom {n : Nat} {s t : State} (h : Host.Core.run Sys2Proof.core n s = .next t) : t.rom = s.rom :=
  run_keeps (P := fun u => u.rom = s.rom) (fun hstep hu => (step_rom hstep).trans hu) h rfl

/-- A ROM that is the image stays the image along every run (20_memory.md R32 (a)). -/
theorem romIntact_run {n : Nat} {s t : State} (h : Host.Core.run Sys2Proof.core n s = .next t)
    (hs : romIntact s = true) : romIntact t = true :=
  romIntact_iff.mpr ((run_rom h).trans (romIntact_iff.mp hs))

/-- Settles O18: no step and no reset writes the ROM, so an intact ROM stays intact along every run and reads the image. -/
theorem romReadsTheImageForAllTime : Obligations.RomReadsTheImageForAllTime :=
  ⟨fun _ _ _ h => run_rom h, applyReset_rom,
    fun _ _ _ hs h _ hg _ hl _ hk => readWord_waddr_of_romIntact (romIntact_run h hs) hg hl hk⟩

end Sys2Proof.Machine

/-!
PROOFS. RDCONST: what its two legal selectors give, and why every other selector is an illegal command (40_dvtable.md R66;
30_encoding.md R44).
-/
namespace Sys2Proof.Machine

@[simp] theorem opField_commandWord (op : BitVec 8) (sh : BitVec 5) : opField (commandWord op sh) = op := by
  apply BitVec.eq_of_getLsbD_eq
  intro j hj
  rw [opField, commandWord, BitVec.getLsbD_extractLsb', BitVec.getLsbD_cast, BitVec.getLsbD_append, if_pos (by omega)]
  simp [hj]

@[simp] theorem shField_commandWord (op : BitVec 8) (sh : BitVec 5) : shField (commandWord op sh) = sh := by
  apply BitVec.eq_of_getLsbD_eq
  intro j hj
  rw [shField, commandWord, BitVec.getLsbD_extractLsb', BitVec.getLsbD_cast, BitVec.getLsbD_append, BitVec.getLsbD_append,
    if_neg (by omega), if_pos (by omega)]
  simp [hj]

/-- A word that does not decode is refused under its name in 30_encoding.md R44. -/
theorem decode_eq_error_illegalReason {cmd : Word} (h : ¬∃ i, decode cmd = .ok i) :
    decode cmd = .error (illegalReason cmd) := by
  rw [decode_ok_iff_selects, ← List.find?_isSome, Option.not_isSome_iff_eq_none] at h
  rw [decode, h]

/-- With `RSV` 0, what is wrong with an illegal RDCONST word is its selector. -/
theorem illegalReason_of_rdconst {cmd : Word} (hop : opField cmd = 0x01) (hrsv : rsvField cmd = 0) :
    illegalReason cmd = .selectorRange (shField cmd) := by
  have hassigned : (opcodeTable.any fun row => opField row.bits == 0x01) = true := by decide
  rw [illegalReason, hop, hrsv, if_pos hassigned]
  rfl

/-- No word with the code of RDCONST and a selector of 2 or more decodes, whatever its `RSV`. -/
theorem not_decode_ok_of_selector {cmd : Word} (hop : opField cmd = 0x01) (hsel : 2 ≤ (shField cmd).toNat) :
    ¬∃ i, decode cmd = .ok i :=
  (illegalByFields_iff cmd).mp (.inr (.inr (.inr ⟨hop, hsel⟩)))

theorem decode_commandWord_selector {sel : BitVec 5} (hsel : 2 ≤ sel.toNat) :
    decode (commandWord 0x01 sel) = .error (.selectorRange sel) := by
  have hop := opField_commandWord 0x01 sel
  have hsh := shField_commandWord 0x01 sel
  rw [decode_eq_error_illegalReason (not_decode_ok_of_selector hop (hsh.symm ▸ hsel)),
    illegalReason_of_rdconst hop (Laws.rsvField_commandWord 0x01 sel), hsh]

/-- RDCONST of an exposed constant completes with it in lane 0; the operands of the request play no part. -/
theorem exec_rdconst_of_readConst {s : State} {r : Request} {rest : List Request} {sel : BitVec 5} {w : Word}
    (h : s.inFlight = r :: rest) (hw : readConst Config.geometry sel = some w) :
    exec (.rdconst sel) s = .next (complete s r rest (.ok (pack (scalarResult w)))) := by
  simp only [exec, execRdconst, rdconstOn, withRequest_cons _ h, hw, succeed]

/-- Settles O22: the two legal words by decoding them, the constants by reading them, the other selectors by the fourth
ground of 30_encoding.md R44. -/
theorem rdconstGivesTheConstants : Obligations.RdconstGivesTheConstants := by
  refine ⟨rfl, rfl, fun _ hsel => decode_commandWord_selector hsel, fun s r rest h => ⟨?numDimensions, ?numSets, ?illegal⟩⟩
  case numDimensions => exact exec_rdconst_of_readConst h (readConst_numDimensions _)
  case numSets => exact exec_rdconst_of_readConst h (readConst_numDimensionSets4D _)
  case illegal => exact fun hsel hop => step_of_not_decode_ok h (not_decode_ok_of_selector hop hsel)

end Sys2Proof.Machine

/-!
PROOFS. What the folds compute, for any XOR: congruence, linearity, one-hot indices, and SB's loop (41_sobol_scalar.md R71 to
R74; 42_sobol_vector.md R78).
-/
namespace Sys2Proof.Machine

section folds
variable {α β : Type}

/-- What a fold asks of its XOR: a commutative group in which every element is its own inverse. -/
structure XorLaws (xor : α → α → α) (zero : α) : Prop where
  assoc : ∀ a b c, xor (xor a b) c = xor a (xor b c)
  comm : ∀ a b, xor a b = xor b a
  zero_xor : ∀ a, xor zero a = a
  xor_self : ∀ a, xor a a = zero

theorem XorLaws.xor_zero {xor : α → α → α} {zero : α} (hx : XorLaws xor zero) (a : α) : xor a zero = a := by
  rw [hx.comm, hx.zero_xor]

theorem XorLaws.xor_xor_xor_comm {xor : α → α → α} {zero : α} (hx : XorLaws xor zero) (a b c d : α) :
    xor (xor a b) (xor c d) = xor (xor a c) (xor b d) := by
  rw [hx.assoc, hx.assoc, ← hx.assoc b, hx.comm b c, hx.assoc c]

theorem xorLaws_word : XorLaws (fun a b : Word => a ^^^ b) 0 :=
  ⟨BitVec.xor_assoc, BitVec.xor_comm, fun _ => BitVec.zero_xor, fun _ => BitVec.xor_self⟩

theorem xorLaws_bool : XorLaws Bool.xor false :=
  ⟨Bool.xor_assoc, Bool.xor_comm, Bool.false_xor, Bool.xor_self⟩

/-- I4.XOR is the XOR of each lane, whatever the straps (45_int4.md R113, R123). -/
@[simp] theorem lane_i4Xor (dp : Config.Datapath) (a b : Int4) (k : Fin 4) :
    (i4Xor dp a b).lane k = a.lane k ^^^ b.lane k := by
  have hzip : i4Xor dp a b = zipLanes (· ^^^ ·) a b := by
    unfold i4Xor
    cases dp.backend <;> rfl
  rw [hzip, lane_zipLanes]

theorem xorLaws_i4Xor (dp : Config.Datapath) : XorLaws (i4Xor dp) (splat 0) where
  assoc a b c := int4_ext fun k => by simp [BitVec.xor_assoc]
  comm a b := int4_ext fun k => by simp [BitVec.xor_comm]
  zero_xor a := int4_ext fun k => by simp
  xor_self a := int4_ext fun k => by simp

/-- What level `l` puts into a fold: its word where the index bit `31 - l` is 1, else nothing (41_sobol_scalar.md R72). -/
def selectedLevel (zero : α) (word : Nat → α) (idx : Word) (l : Nat) : α :=
  if idx.getLsbD (31 - l) then word l else zero

section laws
variable {xor : α → α → α} {zero : α} {word word' : Nat → α} {idx idx' : Word} {ls : List Nat}

theorem xorOfLevels_cons (hx : XorLaws xor zero) (l : Nat) :
    xorOfLevels xor zero word idx (l :: ls) =
      xor (selectedLevel zero word idx l) (xorOfLevels xor zero word idx ls) := by
  rw [xorOfLevels, selectedLevel]
  split
  · rfl
  · exact (hx.zero_xor _).symm

/-- Only what the levels put in matters to a fold. -/
theorem xorOfLevels_congr (hx : XorLaws xor zero)
    (h : ∀ l ∈ ls, selectedLevel zero word idx l = selectedLevel zero word' idx' l) :
    xorOfLevels xor zero word idx ls = xorOfLevels xor zero word' idx' ls := by
  induction ls with
  | nil => rfl
  | cons l ls ih =>
    obtain ⟨hl, hls⟩ := List.forall_mem_cons.mp h
    rw [xorOfLevels_cons hx, xorOfLevels_cons hx, hl, ih hls]

/-- A fold in which no level puts anything in is zero. -/
theorem xorOfLevels_eq_zero (hx : XorLaws xor zero) (h : ∀ l ∈ ls, selectedLevel zero word idx l = zero) :
    xorOfLevels xor zero word idx ls = zero := by
  induction ls with
  | nil => rfl
  | cons l ls ih =>
    obtain ⟨hl, hls⟩ := List.forall_mem_cons.mp h
    rw [xorOfLevels_cons hx, hl, ih hls, hx.zero_xor]

/-- A fold in which one level alone puts something in is what that level puts in. -/
theorem xorOfLevels_eq_single (hx : XorLaws xor zero) {c : Nat} (hnodup : ls.Nodup) (hc : c ∈ ls)
    (h : ∀ l ∈ ls, l ≠ c → selectedLevel zero word idx l = zero) :
    xorOfLevels xor zero word idx ls = selectedLevel zero word idx c := by
  induction ls with
  | nil => cases hc
  | cons l ls ih =>
    obtain ⟨hl, hls⟩ := List.forall_mem_cons.mp h
    obtain ⟨hnot, hnodup⟩ := List.nodup_cons.mp hnodup
    rw [xorOfLevels_cons hx]
    by_cases hlc : l = c
    · subst hlc
      rw [xorOfLevels_eq_zero hx fun l' hl' => hls l' hl' fun e => hnot (e ▸ hl'), hx.xor_zero]
    · rw [hl hlc, hx.zero_xor, ih hnodup ((List.mem_cons.mp hc).resolve_left (Ne.symm hlc)) hls]

theorem selectedLevel_xor (hx : XorLaws xor zero) (l : Nat) :
    selectedLevel zero word (idx ^^^ idx') l =
      xor (selectedLevel zero word idx l) (selectedLevel zero word idx' l) := by
  rw [selectedLevel, selectedLevel, selectedLevel, BitVec.getLsbD_xor]
  cases idx.getLsbD (31 - l) <;> cases idx'.getLsbD (31 - l) <;> simp [hx.zero_xor, hx.xor_zero, hx.xor_self]

/-- A fold is linear in its index (41_sobol_scalar.md R74 (a)). -/
theorem xorOfLevels_xor (hx : XorLaws xor zero) :
    xorOfLevels xor zero word (idx ^^^ idx') ls =
      xor (xorOfLevels xor zero word idx ls) (xorOfLevels xor zero word idx' ls) := by
  induction ls with
  | nil => exact (hx.zero_xor zero).symm
  | cons l ls ih => simp only [xorOfLevels_cons hx, ih, selectedLevel_xor hx, hx.xor_xor_xor_comm]

/-- A map that keeps XOR and zero can be applied to a fold or to its levels: a bit of a word, a lane of an `Int4`. -/
theorem map_xorOfLevels {xor' : β → β → β} {zero' : β} {f : α → β} (hzero : f zero = zero')
    (hxor : ∀ a b, f (xor a b) = xor' (f a) (f b)) :
    f (xorOfLevels xor zero word idx ls) = xorOfLevels xor' zero' (fun l => f (word l)) idx ls := by
  induction ls with
  | nil => exact hzero
  | cons l ls ih =>
    rw [xorOfLevels, xorOfLevels]
    split
    · rw [hxor, ih]
    · exact ih

/-- A one-hot word has one bit. -/
theorem getLsbD_one_shiftLeft {p : Nat} (hp : p < 32) (j : Nat) : ((1 : Word) <<< p).getLsbD j = decide (j = p) := by
  have h := BitVec.getLsbD_twoPow (w := 32) p j
  rw [BitVec.twoPow] at h
  simpa [hp, eq_comm] using h

/-- Bit `31 - l` of a one-hot index selects one level. -/
theorem selectedLevel_one_hot {p l : Nat} (hp : p < 32) (hl : l < 16) :
    selectedLevel zero word ((1 : Word) <<< p) l = if l = 31 - p then word l else zero := by
  have hlevel : 31 - l = p ↔ l = 31 - p := by omega
  rw [selectedLevel, getLsbD_one_shiftLeft hp]
  simp only [decide_eq_true_eq, hlevel]

/-- A one-hot index reads out its level (40_dvtable.md R67). -/
theorem xorOfLevels_one_hot (hx : XorLaws xor zero) {p : Nat} (hp : p < 32) (hlevel : 16 ≤ p) :
    xorOfLevels xor zero word ((1 : Word) <<< p) (List.range 16) = word (31 - p) := by
  have hmem : 31 - p ∈ List.range 16 := List.mem_range.mpr (by omega)
  rw [xorOfLevels_eq_single hx List.nodup_range hmem, selectedLevel_one_hot hp (List.mem_range.mp hmem), if_pos rfl]
  intro l hl hne
  rw [selectedLevel_one_hot hp (List.mem_range.mp hl), if_neg hne]

end laws

/-- Bit `j` of a fold of words is the fold of the words' bits `j`. -/
theorem getLsbD_xorOfLevels (word : Nat → Word) (idx : Word) (ls : List Nat) (j : Nat) :
    (xorOfLevels (· ^^^ ·) 0 word idx ls).getLsbD j =
      xorOfLevels Bool.xor false (fun l => (word l).getLsbD j) idx ls :=
  map_xorOfLevels (f := fun w : Word => w.getLsbD j) BitVec.getLsbD_zero fun _ _ => BitVec.getLsbD_xor

/-- A fold of words from level 0 up, with an accumulator. -/
theorem foldl_eq_xorOfLevels (word : Nat → Word) (idx acc : Word) (ls : List Nat) :
    ls.foldl (fun acc l => if idx.getLsbD (31 - l) then acc ^^^ word l else acc) acc =
      acc ^^^ xorOfLevels (· ^^^ ·) 0 word idx ls := by
  induction ls generalizing acc with
  | nil => simp [xorOfLevels]
  | cons l ls ih =>
    rw [List.foldl_cons, ih, xorOfLevels]
    split
    · rw [BitVec.xor_assoc]
    · rfl

/-- `clz32` of a word that is not 0 gives the place of its most significant 1 bit (00_scope.md R9). -/
theorem exists_top_bit {v : Word} (hv : v ≠ 0) :
    ∃ p < 32, clz32 v = 31 - p ∧ v.getLsbD p = true ∧ ∀ j, v.getLsbD j = true → j ≤ p := by
  have hne : v.toNat ≠ 0 := fun h => hv (BitVec.eq_of_toNat_eq h)
  refine ⟨v.toNat.log2, (Nat.log2_lt hne).mpr v.isLt, if_neg hv, Nat.testBit_log2 hne, fun j hj => ?_⟩
  exact (Nat.le_log2 hne).mpr (Nat.ge_two_pow_of_testBit hj)

/-- Clearing a bit that is 1 is flipping it. -/
theorem and_not_one_hot {v : Word} {p : Nat} (hp : p < 32) (hbit : v.getLsbD p = true) :
    v &&& ~~~((1 : Word) <<< p) = v ^^^ (1 : Word) <<< p := by
  apply BitVec.eq_of_getLsbD_eq
  intro j hj
  rw [BitVec.getLsbD_and, BitVec.getLsbD_not, BitVec.getLsbD_xor, getLsbD_one_shiftLeft hp]
  by_cases hjp : j = p
  · simp [hjp, hbit]
  · simp [hjp, hj]

/-- SB's loop folds the levels its index selects into the accumulator, in as many passes as the index has bit positions from
16 up (41_sobol_scalar.md R71, R72). -/
theorem foldLoop_eq {xor : α → α → α} {zero : α} (hx : XorLaws xor zero) {read : Nat → Option α} {word : Nat → α}
    (hread : ∀ l < 16, read l = some (word l)) (n : Nat) {idx : Word} (acc : α)
    (hidx : ∀ j, idx.getLsbD j = true → 16 ≤ j ∧ j < 16 + n) :
    foldLoop xor read n idx acc = some (xor acc (xorOfLevels xor zero word idx (List.range 16))) := by
  have nothing : xorOfLevels xor zero word 0 (List.range 16) = zero :=
    xorOfLevels_eq_zero hx fun l _ => by simp [selectedLevel]
  induction n generalizing idx acc with
  | zero =>
    have hzero : idx = 0 := BitVec.eq_of_getLsbD_eq fun j _ => by
      by_contra hne
      have := hidx j (by simpa using hne)
      omega
    rw [foldLoop, hzero, nothing, hx.xor_zero]
  | succ n ih =>
    rw [foldLoop]
    split
    next hzero => rw [hzero, nothing, hx.xor_zero]
    next hne =>
      obtain ⟨p, hp, hclz, hbit, htop⟩ := exists_top_bit hne
      obtain ⟨hlow, hhigh⟩ := hidx p hbit
      have hcleared : ∀ j, (idx ^^^ (1 : Word) <<< p).getLsbD j = true → 16 ≤ j ∧ j < 16 + n := by
        intro j hj
        rw [← and_not_one_hot hp hbit, BitVec.getLsbD_and, BitVec.getLsbD_not, getLsbD_one_shiftLeft hp] at hj
        simp only [Bool.and_eq_true, decide_eq_true_eq, Bool.not_eq_true', decide_eq_false_iff_not] at hj
        have := hidx j hj.1
        have := htop j hj.1
        omega
      have hsplit : xorOfLevels xor zero word idx (List.range 16) =
          xor (word (31 - p)) (xorOfLevels xor zero word (idx ^^^ (1 : Word) <<< p) (List.range 16)) := by
        rw [← xorOfLevels_one_hot (word := word) hx hp hlow, ← xorOfLevels_xor hx, BitVec.xor_comm, BitVec.xor_assoc,
          BitVec.xor_self, BitVec.xor_zero]
      have hclear : 31 - (31 - p) = p := by omega
      rw [hclz, hread (31 - p) (by omega), hclear, and_not_one_hot hp hbit]
      dsimp only
      rw [ih (xor acc (word (31 - p))) hcleared, hsplit, hx.assoc]

/-- The mask keeps the index bits 31:16 and clears the others (41_sobol_scalar.md R73). -/
theorem getLsbD_maskIndex_eq (x : Word) (j : Nat) : (maskIndex x).getLsbD j = (decide (16 ≤ j) && x.getLsbD j) := by
  by_cases hj : j < 32
  · have hmask : ∀ i < 32, (0xFFFF0000 : Word).getLsbD i = decide (16 ≤ i) := by decide
    rw [maskIndex, BitVec.getLsbD_and, hmask j hj, Bool.and_comm]
  · rw [BitVec.getLsbD_of_ge _ j (by omega), BitVec.getLsbD_of_ge _ j (by omega), Bool.and_false]

theorem maskIndex_idem (x : Word) : maskIndex (maskIndex x) = maskIndex x := by
  apply BitVec.eq_of_getLsbD_eq
  intro j _
  simp [getLsbD_maskIndex_eq]

theorem maskIndex_xor (x y : Word) : maskIndex (x ^^^ y) = maskIndex x ^^^ maskIndex y := by
  apply BitVec.eq_of_getLsbD_eq
  intro j _
  simp [getLsbD_maskIndex_eq, Bool.and_xor_distrib_left]

/-- A fold reads the same levels of an index and of the masked index (41_sobol_scalar.md R73). -/
theorem xorOfLevels_maskIndex {xor : α → α → α} {zero : α} (hx : XorLaws xor zero) (word : Nat → α) (x : Word) :
    xorOfLevels xor zero word (maskIndex x) (List.range 16) = xorOfLevels xor zero word x (List.range 16) :=
  xorOfLevels_congr hx fun l hl => by
    rw [selectedLevel, selectedLevel, getLsbD_maskIndex x (List.mem_range.mp hl)]

/-- The mask leaves SB's loop 16 passes. -/
theorem maskIndex_passes {x : Word} : ∀ j, (maskIndex x).getLsbD j = true → 16 ≤ j ∧ j < 16 + 16 := by
  intro j hj
  have hlt := BitVec.lt_of_getLsbD hj
  simp only [getLsbD_maskIndex_eq, Bool.and_eq_true, decide_eq_true_eq] at hj
  exact ⟨hj.1, hlt⟩

end folds

/-- Settles O49: the loop folds the selected levels into zero, on words and on the four lanes alike. -/
theorem loopFoldEqualsClosedForm : Obligations.LoopFoldEqualsClosedForm := by
  refine fun geo => ⟨fun rom x d hd => ?scalar, fun dp rom x g hg => ?vector⟩
  case scalar =>
    rw [foldByLoop, fold_eq rom x hd, foldLoop_eq xorLaws_word (fun _ hl => dimensionWord_eq rom hd hl) 16 0 maskIndex_passes,
      xorLaws_word.zero_xor]
  case vector =>
    rw [fold4ByLoop, fold4_eq dp rom x hg,
      foldLoop_eq (xorLaws_i4Xor dp) (fun _ hl => groupRow_eq rom hg hl) 16 (splat 0) maskIndex_passes,
      (xorLaws_i4Xor dp).zero_xor]

/-- Settles O50: masking twice is masking once, and the fold of the masked index is linear. -/
theorem foldMasksAndIsLinear : Obligations.FoldMasksAndIsLinear := by
  refine fun geo rom x y d hd => ⟨?masked, ?zero, _, _, fold_eq rom x hd, fold_eq rom y hd, ?linear⟩
  case masked => rw [fold, fold, ← maskIndex, maskIndex_idem]
  case zero =>
    rw [fold_eq rom 0 hd, xorOfLevels_eq_zero xorLaws_word fun l _ => by simp [selectedLevel, maskIndex]]
  case linear => rw [fold_eq rom _ hd, maskIndex_xor, xorOfLevels_xor xorLaws_word]

end Sys2Proof.Machine

/-!
PROOFS. What SOBOL, SAMPLE and their 4-wide counterparts answer on a block of any geometry, and SOBOL's closed form and
one-hot read-out on this hardware (41_sobol_scalar.md R70, R72, R74; 42_sobol_vector.md R77; 44_sampling.md R92, R99, R101).
-/
namespace Sys2Proof.Machine

/-- The word of a dimension is at its set, level and lane (41_sobol_scalar.md R71). -/
theorem dimensionWord_eq_readWord (geo : Config.Geometry) (rom : Memory) (d : Word) (l : Nat) :
    dimensionWord geo rom d l = rom.readWord geo (waddr (d.toNat / 4) l (d.toNat % 4)) := by
  rw [dimensionWord, waddr_of_dimension, waddr, show (d.toNat / 4 * 16 + l) * 4 = d.toNat / 4 * 64 + l * 4 by omega]

section folds
variable {geo : Config.Geometry} (rom : Memory) (x : Word) {d g : Word}

/-- The scalar fold reads its levels straight from the index (41_sobol_scalar.md R73). -/
theorem fold_eq_unmasked (hd : d.toNat < geo.numDimensions) :
    fold geo rom x d = some (xorOfLevels (· ^^^ ·) 0 (levelWord geo rom d) x (List.range 16)) := by
  rw [fold_eq rom x hd, xorOfLevels_maskIndex xorLaws_word]

/-- The 4-lane fold reads its levels straight from the index (42_sobol_vector.md R78). -/
theorem fold4_eq_unmasked (dp : Config.Datapath) (hg : g.toNat < geo.numDimensionSets4D) :
    fold4 geo dp rom x g = some (xorOfLevels (i4Xor dp) (splat 0) (levelRow geo rom g) x (List.range 16)) := by
  rw [fold4_eq dp rom x hg, xorOfLevels_maskIndex (xorLaws_i4Xor dp)]

/-- An index bit below 16 selects no level (41_sobol_scalar.md R74 (b)). -/
theorem xorOfLevels_one_hot_low {α : Type} {xor : α → α → α} {zero : α} (hx : XorLaws xor zero) (word : Nat → α) {p : Nat}
    (hp : p < 16) : xorOfLevels xor zero word ((1 : Word) <<< p) (List.range 16) = zero :=
  xorOfLevels_eq_zero hx fun l hl => by
    have hl := List.mem_range.mp hl
    rw [selectedLevel_one_hot (by omega) hl, if_neg (by omega)]

theorem fold_one_hot (hd : d.toNat < geo.numDimensions) {p : Nat} (hp : p < 32) :
    fold geo rom ((1 : Word) <<< p) d = some (if 16 ≤ p then levelWord geo rom d (31 - p) else 0) := by
  rw [fold_eq_unmasked rom _ hd]
  split
  next hlevel => rw [xorOfLevels_one_hot xorLaws_word hp hlevel]
  next hlow => rw [xorOfLevels_one_hot_low xorLaws_word _ (by omega)]

theorem fold4_one_hot (dp : Config.Datapath) (hg : g.toNat < geo.numDimensionSets4D) {p : Nat} (hp : p < 32) :
    fold4 geo dp rom ((1 : Word) <<< p) g = some (if 16 ≤ p then levelRow geo rom g (31 - p) else splat 0) := by
  rw [fold4_eq_unmasked rom _ dp hg]
  split
  next hlevel => rw [xorOfLevels_one_hot (xorLaws_i4Xor dp) hp hlevel]
  next hlow => rw [xorOfLevels_one_hot_low (xorLaws_i4Xor dp) _ (by omega)]

end folds

section answers
variable {geo : Config.Geometry} {s : State} {r : Request} {rest : List Request} (h : s.inFlight = r :: rest)
include h

theorem rdconstOn_of_readConst {sel : BitVec 5} {w : Word} (hw : readConst geo sel = some w) :
    rdconstOn geo sel s = .next (complete s r rest (.ok (pack (scalarResult w)))) := by
  simp only [rdconstOn, withRequest_cons _ h, hw, succeed]

theorem sobolOn_of_fold (hd : (scalar2 r).toNat < geo.numDimensions) {v : Word}
    (hv : fold geo s.rom (scalar1 r) (scalar2 r) = some v) :
    sobolOn geo s = .next (complete s r rest (.ok (pack (scalarResult v)))) := by
  simp only [sobolOn, withRequest_cons _ h, dimensionInRange_iff, hd, if_true, hv, withRom_some, succeed]

theorem sobolOn_of_not_lt (hd : ¬(scalar2 r).toNat < geo.numDimensions) :
    sobolOn geo s = .next (complete s r rest (.fault .dimensionRange)) := by
  simp only [sobolOn, withRequest_cons _ h, dimensionInRange_iff, hd, if_false, raise]

theorem sobol4On_of_fold4 (hg : (scalar2 r).toNat < geo.numDimensionSets4D) {v : Int4}
    (hv : fold4 geo Config.datapath s.rom (scalar1 r) (scalar2 r) = some v) :
    sobol4On geo s = .next (complete s r rest (.ok (pack v))) := by
  simp only [sobol4On, withRequest_cons _ h, dimensionSetInRange_iff, hg, if_true, hv, withRom_some, succeed]

theorem sobol4On_of_not_lt (hg : ¬(scalar2 r).toNat < geo.numDimensionSets4D) :
    sobol4On geo s = .next (complete s r rest (.fault .dimensionSetRange)) := by
  simp only [sobol4On, withRequest_cons _ h, dimensionSetInRange_iff, hg, if_false, raise]

theorem sampleOn_of_sample (hd : (scalar2 r).toNat < geo.numDimensions) (hn : (scalar1 r).toNat < 65536) {v : Word}
    (hv : sample geo Config.constants s.rom (scalar1 r) (scalar2 r) (scalar3 r) = some v) :
    sampleOn geo s = .next (complete s r rest (.ok (pack (scalarResult v)))) := by
  simp only [sampleOn, withRequest_cons _ h, dimensionInRange_iff, indexInRange_iff, hd, hn, if_true, hv, withRom_some,
    succeed]

theorem sampleOn_of_le_index (hd : (scalar2 r).toNat < geo.numDimensions) (hn : 65536 ≤ (scalar1 r).toNat) :
    sampleOn geo s = .next (sampleIndexOutOfRange Config.indexCheck s r rest) := by
  simp only [sampleOn, withRequest_cons _ h, dimensionInRange_iff, indexInRange_iff, hd, hn.not_gt, if_true, if_false]

theorem sampleOn_of_not_lt (hd : ¬(scalar2 r).toNat < geo.numDimensions) :
    sampleOn geo s = .next (complete s r rest (.fault .dimensionRange)) := by
  simp only [sampleOn, withRequest_cons _ h, dimensionInRange_iff, hd, if_false, raise]

theorem sample4dOn_of_sample4d (hg : (scalar2 r).toNat < geo.numDimensionSets4D) (hn : (scalar1 r).toNat < 65536) {v : Int4}
    (hv : sample4d geo Config.datapath Config.constants s.rom (scalar1 r) (scalar2 r) (scalar3 r) = some v) :
    sample4dOn geo s = .next (complete s r rest (.ok (pack v))) := by
  simp only [sample4dOn, withRequest_cons _ h, dimensionSetInRange_iff, indexInRange_iff, hg, hn, if_true, hv, withRom_some,
    succeed]

theorem sample4dOn_of_le_index (hg : (scalar2 r).toNat < geo.numDimensionSets4D) (hn : 65536 ≤ (scalar1 r).toNat) :
    sample4dOn geo s = .next (sample4dIndexOutOfRange Config.indexCheck s r rest) := by
  simp only [sample4dOn, withRequest_cons _ h, dimensionSetInRange_iff, indexInRange_iff, hg, hn.not_gt, if_true, if_false]

theorem sample4dOn_of_not_lt (hg : ¬(scalar2 r).toNat < geo.numDimensionSets4D) :
    sample4dOn geo s = .next (complete s r rest (.fault .dimensionSetRange)) := by
  simp only [sample4dOn, withRequest_cons _ h, dimensionSetInRange_iff, hg, if_false, raise]

end answers

theorem exec_sobol (s : State) : exec .sobol s = sobolOn Config.geometry s := rfl

theorem exec_sobol4 (s : State) : exec .sobol4 s = sobol4On Config.geometry s := rfl

/-- Settles O26: in range the fold of the words read is the same XOR taken from level 0 up; out of range the check answers. -/
theorem sobolFoldsTheSelectedLevels : Obligations.SobolFoldsTheSelectedLevels := by
  refine ⟨rfl, fun s r rest h => ?_⟩
  rw [exec_sobol]
  split
  next hd =>
    refine ⟨levelWord Config.geometry s.rom (scalar2 r), fun l hl => ?reads, ?answers⟩
    case reads => rw [← dimensionWord_eq_readWord, dimensionWord_eq s.rom hd hl]
    case answers =>
      rw [foldl_eq_xorOfLevels, show ∀ w : Word, 0 ^^^ w = w from xorLaws_word.zero_xor]
      exact sobolOn_of_fold h hd (fold_eq_unmasked s.rom (scalar1 r) hd)
  next hd => exact sobolOn_of_not_lt h hd

/-- Settles O51: the fold of a one-hot index, for the words of the dimension and for the rows of the set. -/
theorem oneHotIndexReadsTheRom : Obligations.OneHotIndexReadsTheRom := by
  intro s r rest p h hp hx
  rw [exec_sobol, exec_sobol4]
  refine ⟨fun hd => ?scalar, fun hg => ?vector⟩
  case scalar =>
    have answer := sobolOn_of_fold (geo := Config.geometry) h hd (hx ▸ fold_one_hot s.rom hd hp)
    split
    next hlevel =>
      rw [if_pos hlevel] at answer
      refine ⟨_, ?_, answer⟩
      rw [← dimensionWord_eq_readWord, dimensionWord_eq s.rom hd (by omega)]
    next hlow =>
      rw [if_neg hlow] at answer
      exact answer
  case vector =>
    have answer := sobol4On_of_fold4 (geo := Config.geometry) h hg (hx ▸ fold4_one_hot s.rom Config.datapath hg hp)
    split
    next hlevel =>
      rw [if_pos hlevel] at answer
      exact ⟨_, groupRow_eq s.rom hg (by omega), answer⟩
    next hlow =>
      rw [if_neg hlow] at answer
      exact answer

/-- VALIDATING: SAMPLE answers an index of 2^16 or more by the fault (44_sampling.md R92). -/
theorem sampleIndexOutOfRange_validating (s : State) (r : Request) (rest : List Request) :
    (sampleIndexOutOfRange .validating s r rest).delivered = s.delivered ++ [⟨r, .fault .indexRange⟩] := rfl

/-- FAST: SAMPLE completes with one in-range value (44_sampling.md R92). -/
theorem sampleIndexOutOfRange_fast (s : State) (r : Request) (rest : List Request) :
    ∃ y : Word, (sampleIndexOutOfRange .fast s r rest).delivered = s.delivered ++ [⟨r, .ok (pack ⟨tonorm y, 0, 0, 0⟩)⟩] :=
  ⟨_, rfl⟩

/-- VALIDATING: SAMPLE4D answers an index of 2^16 or more by the fault (44_sampling.md R92). -/
theorem sample4dIndexOutOfRange_validating (s : State) (r : Request) (rest : List Request) :
    (sample4dIndexOutOfRange .validating s r rest).delivered = s.delivered ++ [⟨r, .fault .indexRange⟩] := rfl

/-- FAST: SAMPLE4D completes with four in-range values, each its own (44_sampling.md R92). -/
theorem sample4dIndexOutOfRange_fast (s : State) (r : Request) (rest : List Request) :
    ∃ y0 y1 y2 y3 : Word, (sample4dIndexOutOfRange .fast s r rest).delivered =
      s.delivered ++ [⟨r, .ok (pack ⟨tonorm y0, tonorm y1, tonorm y2, tonorm y3⟩)⟩] :=
  ⟨_, _, _, _, rfl⟩

/-- Settles O59: each clause is the answer of one operation, with its operand on one side of the bound. -/
theorem everyNumberOfDimensions : Obligations.EveryNumberOfDimensions := by
  refine ⟨rfl, rfl, fun geo => ⟨geo.numDimensions_mod_four, geo.four_le_numDimensions, geo.numDimensionSets4D_eq,
    numDimensions_eq geo, fun s r rest h => ⟨?dimensions, ?sets, ?scalar, ?vector⟩⟩⟩
  case dimensions => exact rdconstOn_of_readConst h (readConst_numDimensions geo)
  case sets => exact rdconstOn_of_readConst h (readConst_numDimensionSets4D geo)
  case scalar =>
    split
    next hd =>
      refine ⟨?sobol, fun hn => ?sample, fun hn => ?sampleIndex⟩
      case sobol =>
        obtain ⟨w, hw⟩ := fold_isSome s.rom (scalar1 r) ((dimensionInRange_iff geo _).mpr hd)
        exact ⟨w, hw, sobolOn_of_fold h hd hw⟩
      case sample =>
        obtain ⟨w, hw⟩ := sample_isSome Config.constants s.rom (scalar1 r) (scalar3 r)
          ((dimensionInRange_iff geo _).mpr hd)
        exact ⟨w, hw, sampleOn_of_sample h hd hn hw⟩
      case sampleIndex =>
        have answers := sampleIndexOutOfRange_answers Config.indexCheck s r rest
        refine ⟨_, sampleOn_of_le_index h hd hn, answers.rom, answers.inFlight, ?_⟩
        cases Config.indexCheck with
        | validating => exact sampleIndexOutOfRange_validating s r rest
        | fast => exact sampleIndexOutOfRange_fast s r rest
    next hd => exact ⟨sobolOn_of_not_lt h hd, sampleOn_of_not_lt h hd⟩
  case vector =>
    split
    next hg =>
      refine ⟨?sobol4, fun hn => ?sample4d, fun hn => ?sample4dIndex⟩
      case sobol4 =>
        obtain ⟨v, hv⟩ := fold4_isSome Config.datapath s.rom (scalar1 r) ((dimensionSetInRange_iff geo _).mpr hg)
        exact ⟨v, hv, sobol4On_of_fold4 h hg hv⟩
      case sample4d =>
        obtain ⟨v, hv⟩ := sample4d_isSome Config.datapath Config.constants s.rom (scalar1 r) (scalar3 r)
          ((dimensionSetInRange_iff geo _).mpr hg)
        exact ⟨v, hv, sample4dOn_of_sample4d h hg hn hv⟩
      case sample4dIndex =>
        have answers := sample4dIndexOutOfRange_answers Config.indexCheck s r rest
        refine ⟨_, sample4dOn_of_le_index h hg hn, answers.rom, answers.inFlight, ?_⟩
        cases Config.indexCheck with
        | validating => exact sample4dIndexOutOfRange_validating s r rest
        | fast => exact sample4dIndexOutOfRange_fast s r rest
    next hg => exact ⟨sobol4On_of_not_lt h hg, sample4dOn_of_not_lt h hg⟩

end Sys2Proof.Machine

/-!
PROOFS. The folds on the image: no stored word has a bit above its level, so a fold is triangular; dimension 0 is the identity
(40_dvtable.md R57 to R62; 41_sobol_scalar.md R74).
-/
namespace Sys2Proof.Machine

/-- The bits below `m` are all 0. -/
def LowBitsClear {W : Nat} (m : Nat) (x : BitVec W) : Prop := ∀ j < m, x.getLsbD j = false

section lowBitsClear
variable {W m n : Nat} {x y : BitVec W}

theorem LowBitsClear.mono (hx : LowBitsClear m x) (h : n ≤ m) : LowBitsClear n x := fun j hj => hx j (by omega)

theorem LowBitsClear.xor (hx : LowBitsClear m x) (hy : LowBitsClear m y) : LowBitsClear m (x ^^^ y) := fun j hj => by
  rw [BitVec.getLsbD_xor, hx j hj, hy j hj, Bool.xor_false]

theorem lowBitsClear_shiftLeft (x : BitVec W) (m : Nat) : LowBitsClear m (x <<< m) := fun j hj => by
  simp [hj]

theorem LowBitsClear.ushiftRight (hx : LowBitsClear m x) (k : Nat) : LowBitsClear (m - k) (x >>> k) := fun j hj => by
  rw [BitVec.getLsbD_ushiftRight, hx (k + j) (by omega)]

end lowBitsClear

/-- A direction vector leaves the bits clear that come after its level, as those before it do: a seed is shifted up to its
level (40_dvtable.md R58), and the recurrence shifts an earlier vector down by no more than the distance (R59). -/
theorem lowBitsClear_nextVector {W : Nat} (r : Config.DirectionRecord) {v : List (BitVec W)}
    (hv : ∀ l < v.length, LowBitsClear (W - 1 - l) (v.getD l 0)) : LowBitsClear (W - 1 - v.length) (nextVector W r v) := by
  have hs := r.s_pos
  simp only [nextVector]
  split
  next => exact lowBitsClear_shiftLeft _ _
  next hseeds =>
    have old := hv (v.length - r.s) (by omega)
    refine List.foldlRecOn _ _ ((old.mono (by omega)).xor ((old.ushiftRight r.s).mono (by omega))) ?_
    intro x hx k hk
    have hk := List.mem_range'_1.mp hk
    split
    · exact hx.xor ((hv (v.length - k) (by omega)).mono (by omega))
    · exact hx

theorem length_naturalVectors (W : Nat) (r : Config.DirectionRecord) (n : Nat) : (naturalVectors W r n).length = n := by
  induction n with
  | zero => rfl
  | succ n ih => rw [naturalVectors, List.length_append, ih, List.length_singleton]

theorem lowBitsClear_naturalVectors (W : Nat) (r : Config.DirectionRecord) (n : Nat) :
    ∀ l < n, LowBitsClear (W - 1 - l) ((naturalVectors W r n).getD l 0) := by
  have hlen := length_naturalVectors W r
  induction n with
  | zero => intro l hl; omega
  | succ n ih =>
    intro l hl
    rw [naturalVectors]
    rcases Nat.lt_succ_iff_lt_or_eq.mp hl with hlt | rfl
    · rw [List.getD_append _ _ _ _ (by rwa [hlen])]
      exact ih l hlt
    · rw [List.getD_append_right _ _ _ _ (by rw [hlen]), hlen, Nat.sub_self, List.getD_cons_zero]
      have next := lowBitsClear_nextVector r (v := naturalVectors W r l) (by rwa [hlen])
      rwa [hlen] at next

/-- A stored word has no bit above its level (40_dvtable.md R62 (b)). -/
theorem getLsbD_storedOfRecord_of_lt (r : Config.DirectionRecord) {l j : Nat} (hlj : l < j) :
    (storedOfRecord 32 r l).getLsbD j = false := by
  rw [storedOfRecord, BitVec.getLsbD_setWidth, getLsbD_revBits]
  by_cases hj : j < 32
  · rw [lowBitsClear_naturalVectors 32 r (l + 1) l (by omega) (32 - 1 - j) (by omega), Bool.and_false, Bool.and_false]
  · simp [hj]

/-- A word of the image has no bit above its level (40_dvtable.md R57, R62 (b)). -/
theorem getLsbD_storedWord_of_lt (d : Nat) {l j : Nat} (hlj : l < j) : (storedWord d l).getLsbD j = false := by
  unfold storedWord
  split
  · simp [show j - l ≠ 0 by omega]
  · exact getLsbD_storedOfRecord_of_lt _ hlj

/-- With nothing listed in the ROM, level `l` of dimension `d` holds its stored word (40_dvtable.md R61). -/
theorem levelWord_nil {geo : Config.Geometry} {d : Word} (hd : d.toNat < geo.numDimensions) {l : Nat} (hl : l < 16) :
    levelWord geo [] d l = storedWord d.toNat l := by
  have hset : d.toNat / 4 < geo.numDimensionSets4D := by have := numDimensions_eq geo; omega
  have hlane : d.toNat % 4 < 4 := Nat.mod_lt _ (by decide)
  rw [levelWord, dimensionWord_eq_readWord, readWord_nil (waddr_lt hset hl hlane), imageWord_waddr hl hlane, dvImage,
    Nat.div_add_mod, Option.getD_some]

/-- On the image a level below `j` puts nothing into bit `j` of a fold. -/
theorem selectedLevel_image_of_lt {geo : Config.Geometry} {d : Word} (hd : d.toNat < geo.numDimensions) (x : Word) {l j : Nat}
    (hl : l < 16) (hlj : l < j) : selectedLevel false (fun l => (levelWord geo [] d l).getLsbD j) x l = false := by
  simp only [selectedLevel, levelWord_nil hd hl, getLsbD_storedWord_of_lt d.toNat hlj, ite_self]

/-- On the image a fold stays below 2^16 (41_sobol_scalar.md R74 (c)). -/
theorem getLsbD_imageFold_of_ge {geo : Config.Geometry} {d : Word} (hd : d.toNat < geo.numDimensions) (x : Word) {j : Nat}
    (hj : 16 ≤ j) : (xorOfLevels (· ^^^ ·) 0 (levelWord geo [] d) x (List.range 16)).getLsbD j = false := by
  rw [getLsbD_xorOfLevels]
  refine xorOfLevels_eq_zero xorLaws_bool fun l hl => ?_
  have hl := List.mem_range.mp hl
  exact selectedLevel_image_of_lt hd x hl (by omega)

/-- On the image bit `j` of a fold depends on the levels from `j` up only (41_sobol_scalar.md R74 (d)). -/
theorem getLsbD_imageFold_congr {geo : Config.Geometry} {d : Word} (hd : d.toNat < geo.numDimensions) {x y : Word} {j : Nat}
    (hxy : ∀ l, j ≤ l → l < 16 → x.getLsbD (31 - l) = y.getLsbD (31 - l)) :
    (xorOfLevels (· ^^^ ·) 0 (levelWord geo [] d) x (List.range 16)).getLsbD j =
      (xorOfLevels (· ^^^ ·) 0 (levelWord geo [] d) y (List.range 16)).getLsbD j := by
  rw [getLsbD_xorOfLevels, getLsbD_xorOfLevels]
  refine xorOfLevels_congr xorLaws_bool fun l hl => ?_
  have hl := List.mem_range.mp hl
  rcases Nat.lt_or_ge l j with hlj | hjl
  · rw [selectedLevel_image_of_lt hd x hl hlj, selectedLevel_image_of_lt hd y hl hlj]
  · rw [selectedLevel, selectedLevel, hxy l hjl hl]

/-- Settles O55: bit by bit, from the words of the image having no bit above their level. -/
theorem foldIsTriangular : Obligations.FoldIsTriangular := by
  intro d x y j hd _ hxy
  refine ⟨_, _, fold_eq_unmasked [] x hd, fold_eq_unmasked [] y hd, ?_, getLsbD_imageFold_congr hd hxy⟩
  exact Nat.lt_pow_two_of_testBit (n := 16) _ fun j hj => getLsbD_imageFold_of_ge hd x hj

/-- Reversal takes one bit to its mirror place. -/
theorem rev32_one_hot {l : Nat} (hl : l < 32) : rev32 ((1 : Word) <<< l) = (1 : Word) <<< (31 - l) := by
  apply BitVec.eq_of_getLsbD_eq
  intro j hj
  have hmirror : 31 - j = l ↔ j = 31 - l := by omega
  rw [getLsbD_rev32, getLsbD_one_shiftLeft hl, getLsbD_one_shiftLeft (by omega)]
  simp [hj, hmirror]

/-- Reversal, mask, reversal gives back a number below 2^16 (40_dvtable.md R57). -/
theorem rev32_maskIndex_rev32 {n : Word} (hn : n.toNat < 65536) : rev32 (maskIndex (rev32 n)) = n := by
  apply BitVec.eq_of_getLsbD_eq
  intro j hj
  rw [getLsbD_rev32, getLsbD_maskIndex_eq, getLsbD_rev32, show 31 - (31 - j) = j by omega]
  by_cases hlow : j < 16
  · simp [hj, show 16 ≤ 31 - j by omega, show 31 - j < 32 by omega]
  · have hclear : n.getLsbD j = false :=
      Nat.testBit_lt_two_pow (hn.trans_le (Nat.pow_le_pow_right (n := 2) (by decide) (show 16 ≤ j by omega)))
    rw [hclear, Bool.and_false, Bool.and_false, Bool.and_false]

/-- Every geometry has dimension 0. -/
theorem dimension_zero_lt (geo : Config.Geometry) : (0 : Word).toNat < geo.numDimensions :=
  Nat.lt_of_lt_of_le (show (0 : Word).toNat < 4 by decide) geo.four_le_numDimensions

theorem levelWord_dimension_zero (geo : Config.Geometry) {l : Nat} (hl : l < 16) :
    levelWord geo [] 0 l = (1 : Word) <<< l :=
  levelWord_nil (dimension_zero_lt geo) hl

/-- On the image bit `j` of dimension 0 stands at level `j` and nowhere else (40_dvtable.md R57). -/
theorem selectedLevel_dimension_zero (geo : Config.Geometry) (x : Word) (j : Nat) {l : Nat} (hl : l < 16) :
    selectedLevel false (fun l => (levelWord geo [] 0 l).getLsbD j) x l = (decide (j = l) && x.getLsbD (31 - l)) := by
  rw [selectedLevel, levelWord_dimension_zero geo hl, getLsbD_one_shiftLeft (by omega)]
  cases x.getLsbD (31 - l) <;> simp

/-- The fold of dimension 0 on the image is the masked index reversed (40_dvtable.md R57). -/
theorem fold_dimension_zero (geo : Config.Geometry) (x : Word) : fold geo [] x 0 = some (rev32 (maskIndex x)) := by
  have hd := dimension_zero_lt geo
  rw [fold_eq_unmasked [] x hd, Option.some_inj]
  apply BitVec.eq_of_getLsbD_eq
  intro j hj
  rw [getLsbD_rev32, getLsbD_maskIndex_eq]
  by_cases hlevel : j < 16
  · rw [getLsbD_xorOfLevels, xorOfLevels_eq_single xorLaws_bool List.nodup_range (List.mem_range.mpr hlevel),
      selectedLevel_dimension_zero geo x j hlevel]
    · simp [hj, show 16 ≤ 31 - j by omega]
    · intro l hl hne
      rw [selectedLevel_dimension_zero geo x j (List.mem_range.mp hl), decide_eq_false hne.symm, Bool.false_and]
  · rw [getLsbD_imageFold_of_ge hd x (by omega)]
    simp [show ¬16 ≤ 31 - j by omega]

/-- Settles O52: the stored words of dimension 0 are one-hot, so its fold is the masked index reversed. -/
theorem dimensionZeroIsTheIdentity : Obligations.DimensionZeroIsTheIdentity := by
  refine ⟨fun l hl => ⟨dvImage_dimension_zero l, ?reversed⟩, fun s r rest hs h hd => ?sobol, fun n hn => ?index⟩
  case reversed => rw [dvImage_dimension_zero, rev32_one_hot (by omega)]
  case sobol =>
    have hfold : fold Config.geometry s.rom (scalar1 r) (scalar2 r) = some (rev32 (maskIndex (scalar1 r))) := by
      rw [romIntact_iff.mp hs, hd, fold_dimension_zero]
    exact sobolOn_of_fold h (by rw [hd]; decide) hfold
  case index => rw [fold_dimension_zero, rev32_maskIndex_rev32 hn]

end Sys2Proof.Machine

/-!
PROOFS. The 4-lane fold lane by lane: SOBOL4's closed form, its four SOBOLs, and when each of them faults (42_sobol_vector.md
R77 to R80).
-/
namespace Sys2Proof.Machine

section lanes
variable {geo : Config.Geometry} (rom : Memory)

/-- Lane `k` of a set's row is the ROM word of that set, level and lane (20_memory.md R24). -/
theorem readWord_waddr_eq_lane_levelRow {g : Word} {l : Nat} (hg : g.toNat < geo.numDimensionSets4D) (hl : l < 16)
    (k : Fin 4) : rom.readWord geo (waddr g.toNat l k) = some ((levelRow geo rom g l).lane k) := by
  have words := fun k : Fin 4 => readWord_of_lt rom (waddr_lt hg hl k.isLt)
  obtain ⟨row, hrow, hlane⟩ := exists_readRow_of_words (row := raddr g.toNat l) words
  have hlevel : levelRow geo rom g l = row := Option.some_inj.mp ((groupRow_eq rom hg hl).symm.trans hrow)
  rw [words k, hlevel, hlane k]

/-- Lane `k` of a set's row is the word of dimension `4g + k` at that level (42_sobol_vector.md R79). -/
theorem levelWord_eq_lane_levelRow {d g : Word} {k : Fin 4} {l : Nat} (hg : g.toNat < geo.numDimensionSets4D)
    (hd : d.toNat = 4 * g.toNat + k) (hl : l < 16) : levelWord geo rom d l = (levelRow geo rom g l).lane k := by
  have hset : d.toNat / 4 = g.toNat := by omega
  have hlane : d.toNat % 4 = k := by omega
  rw [levelWord, dimensionWord_eq_readWord, hset, hlane, readWord_waddr_eq_lane_levelRow rom hg hl, Option.getD_some]

/-- Lane `k` of a 4-lane fold is the fold of the rows' lanes `k`. -/
theorem lane_xorOfLevels (dp : Config.Datapath) (row : Nat → Int4) (idx : Word) (ls : List Nat) (k : Fin 4) :
    (xorOfLevels (i4Xor dp) (splat 0) row idx ls).lane k =
      xorOfLevels (· ^^^ ·) 0 (fun l => (row l).lane k) idx ls :=
  map_xorOfLevels (f := fun v : Int4 => v.lane k) (lane_splat 0 k) fun a b => lane_i4Xor dp a b k

/-- The scalar fold of dimension `4g + k` is lane `k` of the 4-lane fold of set `g` (42_sobol_vector.md R79). -/
theorem fold_eq_lane_of_fold4 (dp : Config.Datapath) (x : Word) {d g : Word} {k : Fin 4} {v : Int4}
    (hg : g.toNat < geo.numDimensionSets4D) (hd : d.toNat = 4 * g.toNat + k) (hv : fold4 geo dp rom x g = some v) :
    fold geo rom x d = some (v.lane k) := by
  have hdim : d.toNat < geo.numDimensions := by
    have := numDimensions_eq geo
    omega
  have hlevels : ∀ l ∈ List.range 16,
      selectedLevel 0 (levelWord geo rom d) x l = selectedLevel 0 (fun l => (levelRow geo rom g l).lane k) x l :=
    fun l hl => by
      rw [selectedLevel, selectedLevel, levelWord_eq_lane_levelRow rom hg hd (List.mem_range.mp hl)]
  rw [fold4_eq_unmasked rom x dp hg, Option.some_inj] at hv
  rw [fold_eq_unmasked rom x hdim, xorOfLevels_congr xorLaws_word hlevels, ← lane_xorOfLevels dp, hv]

end lanes

section faults
variable {geo : Config.Geometry} {s : State} {r : Request} {rest : List Request}

/-- A request completed with a result is not one answered by a fault. -/
theorem complete_ok_ne_fault (v : Wide) (code : FaultCode) :
    (Host.Outcome.next (complete s r rest (.ok v)) : StepOutcome) ≠ .next (complete s r rest (.fault code)) := by
  intro hsame
  have hdelivered := congrArg State.delivered (Host.Outcome.next.inj hsame)
  simp at hdelivered

variable (h : s.inFlight = r :: rest)
include h

/-- SOBOL faults exactly on the dimensions out of range (60_exceptions.md R139). -/
theorem sobolOn_eq_fault_iff :
    sobolOn geo s = .next (complete s r rest (.fault .dimensionRange)) ↔ geo.numDimensions ≤ (scalar2 r).toNat := by
  rw [← Nat.not_lt]
  refine ⟨fun hfault hd => ?_, sobolOn_of_not_lt h⟩
  rw [sobolOn_of_fold h hd (fold_eq_unmasked s.rom (scalar1 r) hd)] at hfault
  exact complete_ok_ne_fault _ _ hfault

/-- SOBOL4 faults exactly on the dimension sets out of range (60_exceptions.md R140). -/
theorem sobol4On_eq_fault_iff :
    sobol4On geo s = .next (complete s r rest (.fault .dimensionSetRange)) ↔
      geo.numDimensionSets4D ≤ (scalar2 r).toNat := by
  rw [← Nat.not_lt]
  refine ⟨fun hfault hg => ?_, sobol4On_of_not_lt h⟩
  rw [sobol4On_of_fold4 h hg (fold4_eq_unmasked s.rom (scalar1 r) _ hg)] at hfault
  exact complete_ok_ne_fault _ _ hfault

end faults

/-- Settles O27: in range the lanes of the rows are the ROM's words, and each lane of the fold is their XOR; out of range the
check answers. -/
theorem sobol4FoldsTheSelectedRows : Obligations.Sobol4FoldsTheSelectedRows := by
  refine ⟨rfl, fun s r rest h => ?_⟩
  rw [exec_sobol4]
  split
  next hg =>
    refine ⟨fun l k => (levelRow Config.geometry s.rom (scalar2 r) l).lane k, _,
      fun l hl k => readWord_waddr_eq_lane_levelRow s.rom hg hl k, fun k => ?_,
      sobol4On_of_fold4 h hg (fold4_eq_unmasked s.rom (scalar1 r) _ hg)⟩
    rw [lane_xorOfLevels, foldl_eq_xorOfLevels, show ∀ w : Word, 0 ^^^ w = w from xorLaws_word.zero_xor]
  next hg => exact sobol4On_of_not_lt h hg

/-- Settles O37: the fold of the set, and lane by lane the folds of its four dimensions. -/
theorem sobol4EqualsFourSobols : Obligations.Sobol4EqualsFourSobols := by
  intro s r rest h hg
  have hfold4 := fold4_eq_unmasked (geo := Config.geometry) s.rom (scalar1 r) Config.datapath hg
  refine ⟨_, sobol4On_of_fold4 h hg hfold4, fun k s' r' rest' h' hrom hx hd => ?_⟩
  have hdim : (scalar2 r').toNat < Config.geometry.numDimensions := by
    rw [geometry_numDimensions]
    omega
  refine sobolOn_of_fold h' hdim ?_
  rw [hrom, hx]
  exact fold_eq_lane_of_fold4 s.rom Config.datapath (scalar1 r) hg hd hfold4

/-- Settles O38: `64 ≤ g` and `256 ≤ 4g + k` say the same for each lane `k`; and `2^30` is past the last set. -/
theorem sobol4FaultsWithItsSobols : Obligations.Sobol4FaultsWithItsSobols := by
  intro s r rest h
  rw [exec_sobol4]
  split
  next =>
    intro k s' r' rest' h' hd
    rw [exec_sobol, sobol4On_eq_fault_iff h, sobolOn_eq_fault_iff h', geometry_numDimensionSets4D, geometry_numDimensions]
    omega
  next hlarge =>
    rw [sobol4On_eq_fault_iff h, geometry_numDimensionSets4D]
    omega

end Sys2Proof.Machine

/-!
PROOFS. The HashScrambler: the lanes of the Int4 steps it is built from, its 4-wide forms lane by lane, and the steps of the
hash (43_hash_owen.md R82 to R90).
-/
namespace Sys2Proof.Machine

section lanes
variable (dp : Config.Datapath)

/-- I4.ADD is the sum of each lane, whatever the straps (45_int4.md R107, R123). -/
@[simp] theorem lane_i4Add (a b : Int4) (k : Fin 4) : (i4Add dp a b).lane k = a.lane k + b.lane k := by
  unfold i4Add
  cases dp.backend <;> exact lane_zipLanes (· + ·) a b k

/-- I4.OR is the OR of each lane, whatever the straps (45_int4.md R111, R123). -/
@[simp] theorem lane_i4Or (a b : Int4) (k : Fin 4) : (i4Or dp a b).lane k = a.lane k ||| b.lane k := by
  unfold i4Or
  cases dp.backend <;> exact lane_zipLanes (· ||| ·) a b k

/-- I4.SHR shifts each lane, whatever the straps (45_int4.md R115, R123). -/
@[simp] theorem lane_i4Shr (a : Int4) (sh : BitVec 5) (k : Fin 4) : (i4Shr dp a sh).lane k = a.lane k >>> sh.toNat := by
  unfold i4Shr
  cases dp.backend <;> exact lane_mapLanes (· >>> sh.toNat) a k

/-- The low half of a full 64-bit product is the product modulo 2^32 (45_int4.md R112). -/
theorem setWidth_mul_setWidth (x y : Word) : (x.setWidth 64 * y.setWidth 64).setWidth 32 = x * y := by
  rw [BitVec.setWidth_mul _ _ (by decide), BitVec.setWidth_setWidth_of_le _ (by decide), BitVec.setWidth_eq,
    BitVec.setWidth_setWidth_of_le _ (by decide), BitVec.setWidth_eq]

/-- The multiplier made of two wide multiplies gives the product of each lane (45_int4.md R112). -/
theorem nativeMulEmulated_eq_zipLanes (a b : Int4) : nativeMulEmulated a b = zipLanes (· * ·) a b := by
  simp only [nativeMulEmulated, wideMul, oddToEven, setWidth_mul_setWidth, zipLanes]

/-- I4.MUL is the product of each lane, whatever the straps (45_int4.md R109, R112, R123). -/
@[simp] theorem lane_i4Mul (a b : Int4) (k : Fin 4) : (i4Mul dp a b).lane k = a.lane k * b.lane k := by
  have hzip : i4Mul dp a b = zipLanes (· * ·) a b := by
    unfold i4Mul
    cases dp.backend with
    | fallback => rfl
    | native =>
      cases dp.mulImpl with
      | hw => rfl
      | emulated => exact nativeMulEmulated_eq_zipLanes a b
  rw [hzip, lane_zipLanes]

variable (c : Config.Constants)

/-- HASH4 hashes each lane, whatever the straps (43_hash_owen.md R90). -/
@[simp] theorem lane_hash4 (n : Int4) (k : Fin 4) : (hash4 dp c n).lane k = hash c (n.lane k) := by
  simp only [hash4, lane_i4Xor, lane_i4Shr, lane_i4Mul, lane_splat]
  rfl

/-- OWEN4 scrambles each lane with the seed of that lane, whatever the straps (43_hash_owen.md R90). -/
@[simp] theorem lane_owen4 (x s : Int4) (k : Fin 4) : (owen4 dp c x s).lane k = owen c (x.lane k) (s.lane k) := by
  simp only [owen4, lane_i4Xor, lane_i4Shr, lane_i4Mul, lane_i4Add, lane_i4Or, lane_splat]
  rfl

end lanes

section answers
variable {s : State} {r : Request} {rest : List Request} (h : s.inFlight = r :: rest)
include h

theorem exec_hash :
    exec .hash s = .next (complete s r rest (.ok (pack (scalarResult (hash Config.constants (scalar1 r)))))) :=
  withRequest_cons _ h

theorem exec_owen :
    exec .owen s = .next (complete s r rest (.ok (pack (scalarResult (owen Config.constants (scalar1 r) (scalar2 r)))))) :=
  withRequest_cons _ h

theorem exec_hash4 :
    exec .hash4 s = .next (complete s r rest (.ok (pack (hash4 Config.datapath Config.constants (operandA r))))) :=
  withRequest_cons _ h

theorem exec_owen4 :
    exec .owen4 s =
      .next (complete s r rest (.ok (pack (owen4 Config.datapath Config.constants (operandA r) (operandB r))))) :=
  withRequest_cons _ h

end answers

/-- Settles O36: all four operations complete, and a lane of the 4-wide function is the scalar function of that lane. -/
theorem wideScramblerIsScalarPerLane : Obligations.WideScramblerIsScalarPerLane := by
  refine ⟨rfl, rfl, fun s r rest h => ⟨_, _, exec_hash4 h, exec_owen4 h, fun k s' r' rest' h' hA hB => ⟨?hash, ?owen⟩⟩⟩
  case hash => rw [lane_hash4, ← hA, exec_hash h', scalarResult]
  case owen => rw [lane_owen4, ← hA, ← hB, exec_owen h', scalarResult]

/-- Settles O24: HASH completes with `hash` of `A.0`, whose input XOR and five steps are the intermediate values. -/
theorem hashGivesTheFiveMixSteps : Obligations.HashGivesTheFiveMixSteps :=
  ⟨rfl, fun _ _ _ h => ⟨_, _, _, _, _, _, rfl, rfl, rfl, rfl, rfl, rfl, exec_hash h⟩⟩

end Sys2Proof.Machine

/-!
PROOFS. Sampling: REV32, TONORM and the exact value of its pattern, the answer to an index of 2^16 or more, and SAMPLE4D lane by
lane (44_sampling.md R92 to R102).
-/
namespace Sys2Proof.Machine

section answers
variable {s : State} {r : Request} {rest : List Request} (h : s.inFlight = r :: rest)
include h

theorem exec_rev32 : exec .rev32 s = .next (complete s r rest (.ok (pack (scalarResult (rev32 (scalar1 r)))))) :=
  withRequest_cons _ h

theorem exec_tonorm : exec .tonorm s = .next (complete s r rest (.ok (pack (scalarResult (tonorm (scalar1 r)))))) :=
  withRequest_cons _ h

end answers

theorem exec_sample (s : State) : exec .sample s = sampleOn Config.geometry s := rfl

theorem exec_sample4d (s : State) : exec .sample4d s = sample4dOn Config.geometry s := rfl

/-- Settles O23: REV32 completes with `rev32` of `A.0`, whose bits are the mirrored ones. -/
theorem rev32ReversesTheBits : Obligations.Rev32ReversesTheBits :=
  ⟨rfl, fun _ _ _ h => ⟨_, exec_rev32 h, fun j hj => by rw [getLsbD_rev32, decide_eq_true hj, Bool.true_and]⟩⟩

section binary32
variable {e f : Nat} (he : e < 256) (hf : f < 2 ^ 23)
include he hf

/-- The pattern with exponent field `e`, fraction field `f` and sign bit 0, as a number. -/
theorem toNat_f32Fields : (BitVec.ofNat 32 (e <<< 23 ||| f)).toNat = e * 2 ^ 23 + f := by
  rw [← Nat.shiftLeft_add_eq_or_of_lt hf, Nat.shiftLeft_eq, BitVec.toNat_ofNat]
  omega

theorem getLsbD_sign_f32Fields : (BitVec.ofNat 32 (e <<< 23 ||| f)).getLsbD 31 = false := by
  rw [BitVec.getLsbD, toNat_f32Fields he hf]
  exact Nat.testBit_lt_two_pow (by omega)

/-- The value of a pattern with sign bit 0 and a nonzero exponent field (00_scope.md R9). -/
theorem f32Units_f32Fields (hpos : 0 < e) :
    f32Units (BitVec.ofNat 32 (e <<< 23 ||| f)) = ((2 ^ 23 + f) * 2 ^ (e - 1) : Nat) := by
  have hexp : (BitVec.ofNat 32 (e <<< 23 ||| f) >>> 23).toNat % 256 = e := by
    rw [BitVec.toNat_ushiftRight, toNat_f32Fields he hf, Nat.shiftRight_eq_div_pow]
    omega
  have hfrac : (BitVec.ofNat 32 (e <<< 23 ||| f)).toNat % 2 ^ 23 = f := by
    rw [toNat_f32Fields he hf]
    omega
  simp only [f32Units, hexp, hfrac, getLsbD_sign_f32Fields he hf, Nat.ne_of_gt hpos, if_false, Bool.false_eq_true]

end binary32

/-- The fields of `tonorm`'s pattern when the top 23 bits of `n` are not all 0: the exponent of its leading 1, and the bits
below that 1 as the fraction (44_sampling.md R98). -/
theorem tonorm_eq_f32Fields {n : Word} {k : Nat} (hk : (n >>> 9).toNat = k) (hpos : k ≠ 0) :
    tonorm n = BitVec.ofNat 32 ((104 + k.log2) <<< 23 ||| (k - 2 ^ k.log2) * 2 ^ (23 - k.log2)) := by
  simp only [tonorm, hk, hpos, if_false, Nat.shiftLeft_eq]

/-- The leading 1 of a number below 2^23, put at bit 23, and the bits below it. -/
theorem normalized_mantissa {k : Nat} (hpos : k ≠ 0) (hk : k < 2 ^ 23) :
    k.log2 < 23 ∧ 2 ^ 23 + (k - 2 ^ k.log2) * 2 ^ (23 - k.log2) = k * 2 ^ (23 - k.log2) ∧
      (k - 2 ^ k.log2) * 2 ^ (23 - k.log2) < 2 ^ 23 := by
  have hlog : k.log2 < 23 := (Nat.log2_lt hpos).mpr hk
  have hsplit : 2 ^ k.log2 * 2 ^ (23 - k.log2) = 2 ^ 23 := by
    rw [← pow_add, Nat.add_sub_cancel' hlog.le]
  have hlow : 2 ^ k.log2 ≤ k := Nat.log2_self_le hpos
  have hhigh : k < 2 ^ (k.log2 + 1) := Nat.lt_log2_self
  refine ⟨hlog, ?sum, ?bound⟩
  case sum =>
    rw [← hsplit, ← Nat.add_mul, Nat.add_sub_cancel' hlow]
  case bound =>
    rw [← hsplit]
    exact Nat.mul_lt_mul_of_pos_right (by omega) (Nat.two_pow_pos _)

theorem toNat_ushiftRight_nine (n : Word) : (n >>> 9).toNat = n.toNat / 2 ^ 9 := by
  rw [BitVec.toNat_ushiftRight, Nat.shiftRight_eq_div_pow]

/-- `tonorm` gives a pattern with sign bit 0 whose value is exactly the top 23 bits times `2^-23` (44_sampling.md R97). -/
theorem tonorm_exact (n : Word) :
    (tonorm n).getLsbD 31 = false ∧ f32Units (tonorm n) = (n.toNat / 2 ^ 9 : Nat) * 2 ^ 126 := by
  have hk := toNat_ushiftRight_nine n
  generalize hdef : n.toNat / 2 ^ 9 = k at hk ⊢
  by_cases hpos : k = 0
  · have hzero : tonorm n = 0 := by simp only [tonorm, hk, hpos, if_true]
    rw [hzero, hpos]
    decide
  · obtain ⟨hlog, hsum, hbound⟩ := normalized_mantissa hpos (by omega)
    rw [tonorm_eq_f32Fields hk hpos]
    refine ⟨getLsbD_sign_f32Fields (by omega) hbound, ?_⟩
    rw [f32Units_f32Fields (by omega) hbound (by omega), hsum, Nat.mul_assoc, ← pow_add,
      show 23 - k.log2 + (104 + k.log2 - 1) = 126 by omega]
    exact_mod_cast rfl

/-- Settles O29: TONORM completes with `tonorm` of `A.0`, whose value is exact. -/
theorem tonormIsExactlyTheFraction : Obligations.TonormIsExactlyTheFraction :=
  ⟨rfl, fun _ r _ h => ⟨_, exec_tonorm h, tonorm_exact (scalar1 r)⟩⟩

/-- Settles O31: what the two operations answer on a block of any geometry (O59), at this hardware's. -/
theorem indexOutOfRangeIsFaultOrDraw : Obligations.IndexOutOfRangeIsFaultOrDraw := by
  intro s r rest h hn
  obtain ⟨-, -, hgeometry⟩ := everyNumberOfDimensions
  obtain ⟨-, -, -, -, hanswers⟩ := hgeometry Config.geometry
  obtain ⟨-, -, hscalar, hvector⟩ := hanswers s r rest h
  refine ⟨fun hd => ?sample, fun hg => ?sample4d⟩
  case sample =>
    rw [geometry_numDimensions, if_pos hd] at hscalar
    obtain ⟨-, -, hindex⟩ := hscalar
    exact hindex hn
  case sample4d =>
    rw [geometry_numDimensionSets4D, if_pos hg] at hvector
    obtain ⟨-, -, hindex⟩ := hvector
    exact hindex hn

/-- I4.REV with the block's straps reverses each lane (45_int4.md R116). -/
theorem lane_i4Rev_datapath (a : Int4) (k : Fin 4) : (i4Rev Config.datapath a).lane k = rev32 (a.lane k) :=
  lane_mapLanes rev32 a k

/-- I4.TONORM with the block's straps converts each lane (45_int4.md R118). -/
theorem lane_i4Tonorm_datapath (a : Int4) (k : Fin 4) : (i4Tonorm Config.datapath a).lane k = tonorm (a.lane k) :=
  lane_mapLanes tonorm a k

section lanes
variable {d g : Word} {k : Fin 4} (hd : d.toNat = 4 * g.toNat + k)
include hd

/-- Dimension `4g + k` is in group `g` (41_sobol_scalar.md R71). -/
theorem groupOf_of_dimension : groupOf d = g := by
  apply BitVec.eq_of_toNat_eq
  rw [groupOf, BitVec.toNat_ushiftRight, Nat.shiftRight_eq_div_pow]
  omega

/-- Dimension `4g + k` is lane `k` of its group (41_sobol_scalar.md R71). -/
theorem laneOf_of_dimension : laneOf d = k := by
  apply Fin.ext
  change d.toNat % 4 = k
  omega

variable (c : Config.Constants) (seed : Word)

/-- Lane `k` of `key4` is the scramble key of dimension `4g + k` (44_sampling.md R100, R101). -/
theorem lane_scrambleKey4 (dp : Config.Datapath) :
    (scrambleKey4 dp c g seed).lane k = scrambleKey c (groupOf d) (laneOf d) seed := by
  simp only [scrambleKey4, scrambleKey, groupOf_of_dimension hd, laneOf_of_dimension hd, lane_i4Xor, lane_splat]

/-- Steps 4 to 6 of SAMPLE4D are, in lane `k`, those of SAMPLE for dimension `4g + k` (44_sampling.md R99, R101). -/
theorem lane_scrambleAndConvert4 (v : Int4) :
    (scrambleAndConvert4 Config.datapath c v g seed).lane k = scrambleAndConvert c (v.lane k) d seed := by
  simp only [scrambleAndConvert4, scrambleAndConvert, lane_i4Tonorm_datapath, lane_i4Rev_datapath, lane_owen4, lane_hash4,
    lane_scrambleKey4 hd]

/-- SAMPLE's value for dimension `4g + k` is lane `k` of SAMPLE4D's for set `g`: the folds agree in that lane, and then the
steps after them do (44_sampling.md R102). -/
theorem sample_eq_lane_of_sample4d {geo : Config.Geometry} {rom : Memory} {n : Word} {v : Int4}
    (hg : g.toNat < geo.numDimensionSets4D) (hv : sample4d geo Config.datapath c rom n g seed = some v) :
    sample geo c rom n d seed = some (v.lane k) := by
  obtain ⟨sobol4, hfold4, rfl⟩ := Option.map_eq_some_iff.mp hv
  rw [sample, fold_eq_lane_of_fold4 rom _ _ hg hd hfold4, Option.map_some, lane_scrambleAndConvert4 hd]

end lanes

/-- Settles O39: the value of SAMPLE4D, and lane by lane the values of its four SAMPLEs. -/
theorem sample4dEqualsFourSamples : Obligations.Sample4dEqualsFourSamples := by
  intro s r rest h hg hn
  obtain ⟨v, hv⟩ := sample4d_isSome (geo := Config.geometry) Config.datapath Config.constants s.rom (scalar1 r) (scalar3 r)
    ((dimensionSetInRange_iff _ _).mpr hg)
  refine ⟨v, sample4dOn_of_sample4d h hg hn hv, fun k s' r' rest' h' hrom hindex hd hseed => ?_⟩
  have hdim : (scalar2 r').toNat < Config.geometry.numDimensions := by
    rw [geometry_numDimensions]
    omega
  have hsample : sample Config.geometry Config.constants s'.rom (scalar1 r') (scalar2 r') (scalar3 r') = some (v.lane k) := by
    rw [hrom, hindex, hseed]
    exact sample_eq_lane_of_sample4d hd Config.constants (scalar3 r) hg hv
  exact sampleOn_of_sample h' hdim (hindex ▸ hn) hsample

end Sys2Proof.Machine

/-!
PROOFS. The Int4 unit: the swap-mask cascade as bit reversal, the vector float subtraction as `tonorm`, the lanes of every
operation on both datapaths, what each operation completes with, and that no result depends on the straps (45_int4.md R107 to
R123).
-/
namespace Sys2Proof.Machine

/-- One stage of the swap-mask cascade in one lane (45_int4.md R117). -/
def swapWord (mask : Word) (sh : Nat) (x : Word) : Word := ((x >>> sh) &&& mask) ||| ((x &&& mask) <<< sh)

/-- The mask marks the lower one of each two adjacent groups of `sh` bits. Exchanging the groups takes bit `j` to the bit whose
number has the bit `sh` flipped, which adds or subtracts `sh`. -/
def MarksLowerGroups (mask : Word) (sh : Nat) : Prop :=
  ∀ j < 32, if mask.getLsbD j then j ^^^ sh = sh + j ∧ (sh ≤ j → mask.getLsbD (j - sh) = false)
    else j ^^^ sh = j - sh ∧ sh ≤ j ∧ mask.getLsbD (j - sh) = true

/-- The masks and amounts of the cascade's five stages. -/
theorem cascade_marksLowerGroups :
    MarksLowerGroups 0x0000FFFF 16 ∧ MarksLowerGroups 0x00FF00FF 8 ∧ MarksLowerGroups 0x0F0F0F0F 4 ∧
      MarksLowerGroups 0x33333333 2 ∧ MarksLowerGroups 0x55555555 1 := by
  refine ⟨?_, ?_, ?_, ?_, ?_⟩ <;> unfold MarksLowerGroups <;> decide

/-- With such a mask a stage exchanges adjacent groups of `sh` bits. -/
theorem getLsbD_swapWord {mask : Word} {sh : Nat} (hmask : MarksLowerGroups mask sh) (x : Word) {j : Nat} (hj : j < 32) :
    (swapWord mask sh x).getLsbD j = x.getLsbD (j ^^^ sh) := by
  have hgroup := hmask j hj
  rw [swapWord, BitVec.getLsbD_or, BitVec.getLsbD_and, BitVec.getLsbD_ushiftRight, BitVec.getLsbD_shiftLeft,
    BitVec.getLsbD_and]
  split at hgroup
  next hlower =>
    obtain ⟨hflip, hupper⟩ := hgroup
    by_cases hle : sh ≤ j
    · simp [hlower, hflip, hupper hle]
    · simp [hlower, hflip, Nat.lt_of_not_le hle]
  next hupper =>
    obtain ⟨hflip, hle, hlower⟩ := hgroup
    rw [Bool.eq_false_of_not_eq_true hupper, hlower, hflip]
    simp [hj, Nat.not_lt_of_le hle]

/-- The last stage of the cascade needs no mask: its shifts leave one half of the word each. -/
theorem shift_halves_eq_swapWord (x : Word) : x >>> 16 ||| x <<< 16 = swapWord 0x0000FFFF 16 x := by
  have hmask : ∀ j < 32, (0x0000FFFF : Word).getLsbD j = decide (j < 16) := by decide
  apply BitVec.eq_of_getLsbD_eq
  intro j hj
  rw [swapWord, BitVec.getLsbD_or, BitVec.getLsbD_or, BitVec.getLsbD_and, BitVec.getLsbD_ushiftRight,
    BitVec.getLsbD_shiftLeft, BitVec.getLsbD_shiftLeft, BitVec.getLsbD_and, hmask j hj, hmask (j - 16) (by omega)]
  by_cases hhalf : j < 16
  · simp [hhalf]
  · have hbeyond : x.getLsbD (16 + j) = false := BitVec.getLsbD_of_ge _ _ (by omega)
    simp [hhalf, hbeyond, show j - 16 < 16 by omega]

/-- In one lane the cascade is its five stages, the last one written with the mask it does not need. -/
theorem lane_nativeRev_eq_swapWord (a : Int4) (k : Fin 4) :
    (nativeRev a).lane k =
      swapWord 0x0000FFFF 16 (swapWord 0x00FF00FF 8 (swapWord 0x0F0F0F0F 4 (swapWord 0x33333333 2
        (swapWord 0x55555555 1 (a.lane k))))) := by
  rw [← shift_halves_eq_swapWord]
  match k with
  | 0 | 1 | 2 | 3 => rfl

theorem xor_lt_32 {j b : Nat} (hj : j < 32) (hb : b < 32) : j ^^^ b < 32 := Nat.xor_lt_two_pow (n := 5) hj hb

/-- The stages flip one bit each of a bit's number; flipping all five bits of it mirrors it in the word. -/
theorem xor_stages_eq_mirror : ∀ j < 32, j ^^^ 16 ^^^ 8 ^^^ 4 ^^^ 2 ^^^ 1 = 31 - j := by decide

/-- The swap-mask cascade reverses the bits of each lane (45_int4.md R117). -/
theorem lane_nativeRev (a : Int4) (k : Fin 4) : (nativeRev a).lane k = rev32 (a.lane k) := by
  obtain ⟨mask16, mask8, mask4, mask2, mask1⟩ := cascade_marksLowerGroups
  apply BitVec.eq_of_getLsbD_eq
  intro j hj
  have h16 := xor_lt_32 hj (b := 16) (by decide)
  have h8 := xor_lt_32 h16 (b := 8) (by decide)
  have h4 := xor_lt_32 h8 (b := 4) (by decide)
  have h2 := xor_lt_32 h4 (b := 2) (by decide)
  rw [lane_nativeRev_eq_swapWord, getLsbD_swapWord mask16 _ hj, getLsbD_swapWord mask8 _ h16, getLsbD_swapWord mask4 _ h8,
    getLsbD_swapWord mask2 _ h4, getLsbD_swapWord mask1 _ h2, xor_stages_eq_mirror j hj, getLsbD_rev32, decide_eq_true hj,
    Bool.true_and]

/-- The float in [1, 2) with fraction `n >>> 9`, in units of `2^-149` (44_sampling.md R97). -/
theorem f32Units_mantissaBits (n : Word) : f32Units (mantissaBits n) = ((2 ^ 23 + n.toNat / 2 ^ 9) * 2 ^ 126 : Nat) := by
  have hfields : mantissaBits n = BitVec.ofNat 32 (127 <<< 23 ||| n.toNat / 2 ^ 9) := by
    rw [← toNat_ushiftRight_nine, BitVec.ofNat_or, BitVec.ofNat_toNat, BitVec.setWidth_eq]
    rfl
  rw [hfields, f32Units_f32Fields (by decide) (by omega) (by decide)]

theorem f32Units_one : f32Units 0x3F800000 = (2 ^ 23 * 2 ^ 126 : Nat) := by decide

/-- Doubling a number `n` times moves its leading 1 up by `n`. -/
theorem log2_mul_two_pow {k : Nat} (hpos : k ≠ 0) (n : Nat) : (k * 2 ^ n).log2 = k.log2 + n := by
  induction n with
  | zero => rw [pow_zero, Nat.mul_one, Nat.add_zero]
  | succ n ih => rw [pow_succ', Nat.mul_left_comm, Nat.log2_two_mul (by positivity), ih, Nat.add_assoc]

/-- The pattern of `k * 2^-23`: the exponent of the leading 1 of `k`, and the bits below that 1 as the fraction (44_sampling.md
R98). -/
theorem f32OfUnits_mul_two_pow {k : Nat} (hpos : k ≠ 0) (hk : k < 2 ^ 23) :
    f32OfUnits ((k * 2 ^ 126 : Nat) : Int) =
      BitVec.ofNat 32 ((104 + k.log2) <<< 23 ||| (k - 2 ^ k.log2) * 2 ^ (23 - k.log2)) := by
  obtain ⟨hlog, hsum, -⟩ := normalized_mantissa hpos hk
  have hnormal : ¬k * 2 ^ 126 < 2 ^ 23 := by omega
  have hexponent : (k * 2 ^ 126).log2 = k.log2 + 126 := log2_mul_two_pow hpos 126
  have hfraction : k * 2 ^ 126 / 2 ^ (k.log2 + 126 - 23) - 2 ^ 23 = (k - 2 ^ k.log2) * 2 ^ (23 - k.log2) := by
    have hscale : k * 2 ^ 126 = k * 2 ^ (23 - k.log2) * 2 ^ (k.log2 + 126 - 23) := by
      rw [Nat.mul_assoc, ← pow_add, show 23 - k.log2 + (k.log2 + 126 - 23) = 126 by omega]
    rw [hscale, Nat.mul_div_cancel _ (Nat.two_pow_pos _), ← hsum, Nat.add_sub_cancel_left]
  have hsign : ¬((k * 2 ^ 126 : Nat) : Int) < 0 := Int.not_lt.mpr (Int.natCast_nonneg _)
  simp only [f32OfUnits, Int.natAbs_natCast, hsign, hnormal, if_false, hexponent, hfraction, Nat.zero_or]
  rw [show k.log2 + 126 - 22 = 104 + k.log2 by omega]

/-- The binary32 subtraction of 1.0 is `tonorm` on integers (44_sampling.md R97, R98). -/
theorem tonormFloat_eq_tonorm (n : Word) : tonormFloat n = tonorm n := by
  have hdifference : tonormFloat n = f32OfUnits ((n.toNat / 2 ^ 9 * 2 ^ 126 : Nat) : Int) := by
    rw [tonormFloat, f32Sub, f32Units_mantissaBits, f32Units_one, Nat.add_mul, Nat.cast_add, add_sub_cancel_left]
  have hk := toNat_ushiftRight_nine n
  rw [hdifference]
  generalize hdef : n.toNat / 2 ^ 9 = k at hk
  by_cases hpos : k = 0
  · have hzero : tonorm n = 0 := by simp only [tonorm, hk, hpos, if_true]
    rw [hzero, hpos]
    decide
  · rw [f32OfUnits_mul_two_pow hpos (by omega), tonorm_eq_f32Fields hk hpos]

/-- The vector float subtraction converts each lane (45_int4.md R119). -/
theorem lane_nativeTonorm (a : Int4) (k : Fin 4) : (nativeTonorm a).lane k = tonorm (a.lane k) := by
  have hlane : (nativeTonorm a).lane k = f32Sub (a.lane k >>> 9 ||| 0x3F800000) 0x3F800000 := by
    match k with
    | 0 | 1 | 2 | 3 => rfl
  rw [hlane, BitVec.or_comm, ← tonormFloat_eq_tonorm]
  rfl

section lanes
variable (dp : Config.Datapath)

/-- I4.SUB is the difference of each lane, whatever the straps (45_int4.md R108, R123). -/
@[simp] theorem lane_i4Sub (a b : Int4) (k : Fin 4) : (i4Sub dp a b).lane k = a.lane k - b.lane k := by
  unfold i4Sub
  cases dp.backend <;> exact lane_zipLanes (· - ·) a b k

/-- I4.AND is the AND of each lane, whatever the straps (45_int4.md R110, R123). -/
@[simp] theorem lane_i4And (a b : Int4) (k : Fin 4) : (i4And dp a b).lane k = a.lane k &&& b.lane k := by
  unfold i4And
  cases dp.backend <;> exact lane_zipLanes (· &&& ·) a b k

/-- I4.SHL shifts each lane, whatever the straps (45_int4.md R114, R123). -/
@[simp] theorem lane_i4Shl (a : Int4) (sh : BitVec 5) (k : Fin 4) : (i4Shl dp a sh).lane k = a.lane k <<< sh.toNat := by
  unfold i4Shl
  cases dp.backend <;> exact lane_mapLanes (· <<< sh.toNat) a k

/-- I4.REV reverses each lane, whatever the straps (45_int4.md R116, R117, R123). -/
@[simp] theorem lane_i4Rev (a : Int4) (k : Fin 4) : (i4Rev dp a).lane k = rev32 (a.lane k) := by
  unfold i4Rev
  cases dp.backend with
  | fallback => exact lane_mapLanes rev32 a k
  | native => exact lane_nativeRev a k

/-- I4.TONORM converts each lane, whatever the straps (45_int4.md R118, R119, R123). -/
@[simp] theorem lane_i4Tonorm (a : Int4) (k : Fin 4) : (i4Tonorm dp a).lane k = tonorm (a.lane k) := by
  unfold i4Tonorm
  cases dp.backend with
  | fallback => exact lane_mapLanes tonorm a k
  | native => exact lane_nativeTonorm a k

/-- Steps 4 to 6 of SAMPLE4D lane by lane, whatever the straps (44_sampling.md R101). -/
theorem lane_scrambleAndConvert4_straps (c : Config.Constants) (v : Int4) (g seed : Word) (k : Fin 4) :
    (scrambleAndConvert4 dp c v g seed).lane k =
      tonorm (rev32 (owen c (v.lane k) (hash c (scrambleKey c g k seed)))) := by
  simp only [scrambleAndConvert4, scrambleKey4, scrambleKey, lane_i4Tonorm, lane_i4Rev, lane_owen4, lane_hash4, lane_i4Xor,
    lane_splat]

end lanes

section answers
variable {s : State} {r : Request} {rest : List Request} (h : s.inFlight = r :: rest)
include h

theorem exec_i4Add :
    exec .i4Add s = .next (complete s r rest (.ok (pack (i4Add Config.datapath (operandA r) (operandB r))))) :=
  withRequest_cons _ h

theorem exec_i4Sub :
    exec .i4Sub s = .next (complete s r rest (.ok (pack (i4Sub Config.datapath (operandA r) (operandB r))))) :=
  withRequest_cons _ h

theorem exec_i4Mul :
    exec .i4Mul s = .next (complete s r rest (.ok (pack (i4Mul Config.datapath (operandA r) (operandB r))))) :=
  withRequest_cons _ h

theorem exec_i4And :
    exec .i4And s = .next (complete s r rest (.ok (pack (i4And Config.datapath (operandA r) (operandB r))))) :=
  withRequest_cons _ h

theorem exec_i4Or :
    exec .i4Or s = .next (complete s r rest (.ok (pack (i4Or Config.datapath (operandA r) (operandB r))))) :=
  withRequest_cons _ h

theorem exec_i4Xor :
    exec .i4Xor s = .next (complete s r rest (.ok (pack (i4Xor Config.datapath (operandA r) (operandB r))))) :=
  withRequest_cons _ h

theorem exec_i4Shl (sh : BitVec 5) :
    exec (.i4Shl sh) s = .next (complete s r rest (.ok (pack (i4Shl Config.datapath (operandA r) sh)))) :=
  withRequest_cons _ h

theorem exec_i4Shr (sh : BitVec 5) :
    exec (.i4Shr sh) s = .next (complete s r rest (.ok (pack (i4Shr Config.datapath (operandA r) sh)))) :=
  withRequest_cons _ h

theorem exec_i4Rev :
    exec .i4Rev s = .next (complete s r rest (.ok (pack (i4Rev Config.datapath (operandA r))))) :=
  withRequest_cons _ h

theorem exec_i4Tonorm :
    exec .i4Tonorm s = .next (complete s r rest (.ok (pack (i4Tonorm Config.datapath (operandA r))))) :=
  withRequest_cons _ h

end answers

/-- The difference of two words, as a number, is that of their numbers modulo 2^32. -/
theorem toNat_sub_emod (x y : Word) : ((x - y).toNat : Int) = (x.toNat - y.toNat : Int) % 2 ^ 32 := by
  rw [BitVec.toNat_sub]
  omega

/-- Settles O32: each operation's lanes are the sums, differences and products of words, which wrap at 2^32. -/
theorem int4ArithmeticWrapsPerLane : Obligations.Int4ArithmeticWrapsPerLane := by
  refine ⟨rfl, rfl, rfl, fun s r rest h =>
    ⟨⟨_, exec_i4Add h, fun k => ?add⟩, ⟨_, exec_i4Sub h, fun k => ?sub⟩, ⟨_, exec_i4Mul h, fun k => ?mul⟩⟩⟩
  case add => rw [lane_i4Add, BitVec.toNat_add]
  case sub => rw [lane_i4Sub, toNat_sub_emod]
  case mul => rw [lane_i4Mul, BitVec.toNat_mul]

/-- Settles O33: each operation's lanes are the bitwise operations of words. -/
theorem int4BitwiseIsBitByBit : Obligations.Int4BitwiseIsBitByBit := by
  refine ⟨rfl, rfl, rfl, fun s r rest h =>
    ⟨⟨_, exec_i4And h, fun k j => ?and⟩, ⟨_, exec_i4Or h, fun k j => ?or⟩, ⟨_, exec_i4Xor h, fun k j => ?xor⟩⟩⟩
  case and => rw [lane_i4And, BitVec.getLsbD_and]
  case or => rw [lane_i4Or, BitVec.getLsbD_or]
  case xor => rw [lane_i4Xor, BitVec.getLsbD_xor]

/-- Settles O34: the 64 command words decode; a shift by `SH` multiplies modulo 2^32, or divides, by `2^SH`. -/
theorem int4ShiftsAreLogical : Obligations.Int4ShiftsAreLogical := by
  refine ⟨by decide, fun s r rest sh h => ⟨⟨_, exec_i4Shl h sh, fun k => ?shl⟩, ⟨_, exec_i4Shr h sh, fun k => ?shr⟩⟩⟩
  case shl => rw [lane_i4Shl, BitVec.toNat_shiftLeft, Nat.shiftLeft_eq]
  case shr => rw [lane_i4Shr, BitVec.toNat_ushiftRight, Nat.shiftRight_eq_div_pow]

/-- Settles O35: the lanes are `rev32`, whose bits are the mirrored ones, and `tonorm`, whose value is exact. -/
theorem int4RevAndTonormPerLane : Obligations.Int4RevAndTonormPerLane := by
  refine ⟨rfl, rfl, fun s r rest h => ⟨⟨_, exec_i4Rev h, fun k j hj => ?rev⟩, ⟨_, exec_i4Tonorm h, fun k => ?tonorm⟩⟩⟩
  case rev => rw [lane_i4Rev, getLsbD_rev32, decide_eq_true hj, Bool.true_and]
  case tonorm =>
    rw [lane_i4Tonorm]
    exact tonorm_exact _

/-- Two results whose lanes are the same function of the lane's number are the same. -/
theorem int4_eq_of_lanes {v w : Int4} {f : Fin 4 → Word} (hv : ∀ k, v.lane k = f k) (hw : ∀ k, w.lane k = f k) : v = w :=
  int4_ext fun k => (hv k).trans (hw k).symm

section straps
variable (dp dp' : Config.Datapath)

theorem i4Xor_straps : i4Xor dp = i4Xor dp' :=
  funext₂ fun a b => int4_eq_of_lanes (lane_i4Xor dp a b) (lane_i4Xor dp' a b)

/-- The 4-lane fold uses the datapath for its XOR alone (42_sobol_vector.md R78). -/
theorem fold4_straps (geo : Config.Geometry) (rom : Memory) (x g : Word) : fold4 geo dp rom x g = fold4 geo dp' rom x g := by
  rw [fold4, fold4, i4Xor_straps dp dp']

theorem sample4d_straps (geo : Config.Geometry) (c : Config.Constants) (rom : Memory) (n g seed : Word) :
    sample4d geo dp c rom n g seed = sample4d geo dp' c rom n g seed := by
  have hsteps : ∀ v, scrambleAndConvert4 dp c v g seed = scrambleAndConvert4 dp' c v g seed := fun v =>
    int4_eq_of_lanes (lane_scrambleAndConvert4_straps dp c v g seed) (lane_scrambleAndConvert4_straps dp' c v g seed)
  simp only [sample4d, fold4_straps dp dp', hsteps]

end straps

/-- Settles O46: under any straps the lanes of a result are the same functions of the operands' lanes. -/
theorem backendsAgreeBitForBit : Obligations.BackendsAgreeBitForBit := by
  intro dp dp'
  refine ⟨fun a b => ⟨?add, ?sub, ?mul, ?and, ?or, ?xor, ?rev, ?tonorm⟩, fun a sh => ⟨?shl, ?shr⟩,
    fun geo c rom a b x g seed => ⟨?hash4, ?owen4, fold4_straps dp dp' geo rom x g, sample4d_straps dp dp' geo c rom x g seed⟩⟩
  case add => exact int4_eq_of_lanes (lane_i4Add dp a b) (lane_i4Add dp' a b)
  case sub => exact int4_eq_of_lanes (lane_i4Sub dp a b) (lane_i4Sub dp' a b)
  case mul => exact int4_eq_of_lanes (lane_i4Mul dp a b) (lane_i4Mul dp' a b)
  case and => exact int4_eq_of_lanes (lane_i4And dp a b) (lane_i4And dp' a b)
  case or => exact int4_eq_of_lanes (lane_i4Or dp a b) (lane_i4Or dp' a b)
  case xor => exact int4_eq_of_lanes (lane_i4Xor dp a b) (lane_i4Xor dp' a b)
  case rev => exact int4_eq_of_lanes (lane_i4Rev dp a) (lane_i4Rev dp' a)
  case tonorm => exact int4_eq_of_lanes (lane_i4Tonorm dp a) (lane_i4Tonorm dp' a)
  case shl => exact int4_eq_of_lanes (lane_i4Shl dp a sh) (lane_i4Shl dp' a sh)
  case shr => exact int4_eq_of_lanes (lane_i4Shr dp a sh) (lane_i4Shr dp' a sh)
  case hash4 => exact int4_eq_of_lanes (lane_hash4 dp c a) (lane_hash4 dp' c a)
  case owen4 => exact int4_eq_of_lanes (lane_owen4 dp c a b) (lane_owen4 dp' c a b)

end Sys2Proof.Machine

/-!
PROOFS. Faults: the status of every response, the range faults, and that a fault leaves nothing behind (60_exceptions.md R137
to R143, R147).
-/
namespace Sys2Proof.Machine

/-- The outcome answers request `r` of state `s` with this status byte (60_exceptions.md R137). -/
def AnswersWithStatus (s : State) (r : Request) (o : StepOutcome) (status : BitVec 8) : Prop :=
  ∃ (t : State) (resp : Response), o = .next t ∧ t.delivered = s.delivered ++ [⟨r, resp⟩] ∧ responseStatus resp = status

/-- A request that a fault answers has the status of that fault and no other. -/
theorem AnswersWithStatus.eq_faultStatus {s : State} {r : Request} {rest : List Request} {o : StepOutcome}
    {status : BitVec 8} {code : FaultCode} (h : AnswersWithStatus s r o status)
    (hfault : o = .next (complete s r rest (.fault code))) : status = faultStatus code := by
  obtain ⟨t, resp, ho, hdelivered, rfl⟩ := h
  obtain rfl : complete s r rest (.fault code) = t := Host.Outcome.next.inj (hfault.symm.trans ho)
  obtain rfl : Response.fault code = resp := by simpa using hdelivered
  rfl

/-- A word that decodes as RDCONST has its code in `OP` and the selector in `SH`: only the first row of the opcode map builds
RDCONST (30_encoding.md R43). -/
theorem fields_of_decode_rdconst {cmd : Word} {sel : BitVec 5} (h : decode cmd = .ok (.rdconst sel)) :
    opField cmd = 0x01 ∧ shField cmd = sel := by
  have hbuild : ∀ row ∈ opcodeTable, row.build (shField cmd) = .rdconst sel →
      opField row.bits = 0x01 ∧ shField cmd = sel := by
    simp [opcodeTable, plainRow, opField]
  rw [decode] at h
  split at h
  next row hfind =>
    have hrow := List.mem_of_find?_eq_some hfind
    obtain ⟨hop, hsel⟩ := hbuild row hrow (Except.ok.inj h)
    obtain ⟨hopRow, -⟩ := (selects_iff hrow cmd).mp (List.find?_some (p := fun row : OpcodeRow => row.selects cmd) hfind)
    exact ⟨hopRow.trans hop, hsel⟩
  next => cases h

/-- A decoded RDCONST reads one of the two exposed constants (30_encoding.md R44, 40_dvtable.md R66). -/
theorem readConst_of_decode_rdconst {cmd : Word} {sel : BitVec 5} (h : decode cmd = .ok (.rdconst sel)) :
    ∃ w, readConst Config.geometry sel = some w := by
  obtain ⟨hop, hsel⟩ := fields_of_decode_rdconst h
  have hlt : sel.toNat < 2 := by
    by_contra hge
    exact not_decode_ok_of_selector hop (hsel ▸ Nat.not_lt.mp hge) ⟨_, h⟩
  obtain rfl | rfl : sel = 0 ∨ sel = 1 := by bv_omega
  · exact ⟨_, readConst_numDimensions Config.geometry⟩
  · exact ⟨_, readConst_numDimensionSets4D Config.geometry⟩

/-- SAMPLE's answer to an index of 2^16 or more (60_exceptions.md R141). -/
theorem sampleIndexOutOfRange_status (check : Config.IndexCheck) (s : State) (r : Request) (rest : List Request) :
    AnswersWithStatus s r (.next (sampleIndexOutOfRange check s r rest)) (if check = .validating then 0x04 else 0x00) := by
  cases check with
  | validating => exact ⟨_, _, rfl, rfl, rfl⟩
  | fast => exact ⟨_, _, rfl, rfl, rfl⟩

/-- SAMPLE4D's answer to an index of 2^16 or more (60_exceptions.md R141). -/
theorem sample4dIndexOutOfRange_status (check : Config.IndexCheck) (s : State) (r : Request) (rest : List Request) :
    AnswersWithStatus s r (.next (sample4dIndexOutOfRange check s r rest))
      (if check = .validating then 0x04 else 0x00) := by
  cases check with
  | validating => exact ⟨_, _, rfl, rfl, rfl⟩
  | fast => exact ⟨_, _, rfl, rfl, rfl⟩

section status
variable {geo : Config.Geometry} {s : State} {r : Request} {rest : List Request} (h : s.inFlight = r :: rest)
include h

theorem sobolOn_status :
    AnswersWithStatus s r (sobolOn geo s) (if (scalar2 r).toNat < geo.numDimensions then 0x00 else 0x02) := by
  split
  next hd => exact ⟨_, _, sobolOn_of_fold h hd (fold_eq_unmasked s.rom (scalar1 r) hd), rfl, rfl⟩
  next hd => exact ⟨_, _, sobolOn_of_not_lt h hd, rfl, rfl⟩

theorem sobol4On_status :
    AnswersWithStatus s r (sobol4On geo s) (if (scalar2 r).toNat < geo.numDimensionSets4D then 0x00 else 0x03) := by
  split
  next hg => exact ⟨_, _, sobol4On_of_fold4 h hg (fold4_eq_unmasked s.rom (scalar1 r) _ hg), rfl, rfl⟩
  next hg => exact ⟨_, _, sobol4On_of_not_lt h hg, rfl, rfl⟩

/-- SAMPLE reports the dimension before the index (60_exceptions.md R142). -/
theorem sampleOn_status :
    AnswersWithStatus s r (sampleOn geo s)
      (if (scalar2 r).toNat < geo.numDimensions then
        if (scalar1 r).toNat < 65536 then 0x00
        else if Config.indexCheck = .validating then 0x04 else 0x00
      else 0x02) := by
  split
  next hd =>
    split
    next hn =>
      obtain ⟨v, hv⟩ := sample_isSome Config.constants s.rom (scalar1 r) (scalar3 r) ((dimensionInRange_iff geo _).mpr hd)
      exact ⟨_, _, sampleOn_of_sample h hd hn hv, rfl, rfl⟩
    next hn =>
      rw [sampleOn_of_le_index h hd (Nat.not_lt.mp hn)]
      exact sampleIndexOutOfRange_status Config.indexCheck s r rest
  next hd => exact ⟨_, _, sampleOn_of_not_lt h hd, rfl, rfl⟩

/-- SAMPLE4D reports the dimension set before the index (60_exceptions.md R142). -/
theorem sample4dOn_status :
    AnswersWithStatus s r (sample4dOn geo s)
      (if (scalar2 r).toNat < geo.numDimensionSets4D then
        if (scalar1 r).toNat < 65536 then 0x00
        else if Config.indexCheck = .validating then 0x04 else 0x00
      else 0x03) := by
  split
  next hg =>
    split
    next hn =>
      obtain ⟨v, hv⟩ := sample4d_isSome Config.datapath Config.constants s.rom (scalar1 r) (scalar3 r)
        ((dimensionSetInRange_iff geo _).mpr hg)
      exact ⟨_, _, sample4dOn_of_sample4d h hg hn hv, rfl, rfl⟩
    next hn =>
      rw [sample4dOn_of_le_index h hg (Nat.not_lt.mp hn)]
      exact sample4dIndexOutOfRange_status Config.indexCheck s r rest
  next hg => exact ⟨_, _, sample4dOn_of_not_lt h hg, rfl, rfl⟩

/-- SAMPLE reports DIMENSION_RANGE exactly on the dimensions out of range: in range its status is 00 or 04
(60_exceptions.md R139). -/
theorem sampleOn_eq_fault_iff :
    sampleOn geo s = .next (complete s r rest (.fault .dimensionRange)) ↔ geo.numDimensions ≤ (scalar2 r).toNat := by
  rw [← Nat.not_lt]
  refine ⟨fun hfault hd => ?_, sampleOn_of_not_lt h⟩
  have hstatus := (sampleOn_status h).eq_faultStatus hfault
  rw [if_pos hd] at hstatus
  split_ifs at hstatus <;> cases hstatus

/-- SAMPLE4D reports DIMENSION_SET_RANGE exactly on the dimension sets out of range: in range its status is 00 or 04
(60_exceptions.md R140). -/
theorem sample4dOn_eq_fault_iff :
    sample4dOn geo s = .next (complete s r rest (.fault .dimensionSetRange)) ↔
      geo.numDimensionSets4D ≤ (scalar2 r).toNat := by
  rw [← Nat.not_lt]
  refine ⟨fun hfault hg => ?_, sample4dOn_of_not_lt h⟩
  have hstatus := (sample4dOn_status h).eq_faultStatus hfault
  rw [if_pos hg] at hstatus
  split_ifs at hstatus <;> cases hstatus

end status

/-- Settles O28: the four range checks, which hold on every geometry, at this hardware's. -/
theorem rangeFaultsExactlyOutOfRange : Obligations.RangeFaultsExactlyOutOfRange :=
  fun _ _ _ h =>
    ⟨sobolOn_eq_fault_iff h, sampleOn_eq_fault_iff h, sobol4On_eq_fault_iff h, sample4dOn_eq_fault_iff h⟩

/-- Settles O13: an illegal word has its own fault, four operations check a range, RDCONST decodes only with a constant to
read, and the other operations complete whatever their operands (60_exceptions.md R147). -/
theorem responseStatusIsExactly : Obligations.ResponseStatusIsExactly := by
  intro s r rest h
  rw [step_cons h]
  cases hdec : decode r.cmd with
  | error _ => exact ⟨_, _, rfl, rfl, rfl⟩
  | ok i =>
    cases i with
    | sobol => exact sobolOn_status h
    | sobol4 => exact sobol4On_status h
    | sample => exact sampleOn_status h
    | sample4d => exact sample4dOn_status h
    | rdconst sel =>
      obtain ⟨w, hw⟩ := readConst_of_decode_rdconst hdec
      exact ⟨_, _, exec_rdconst_of_readConst h hw, rfl, rfl⟩
    | rev32 | hash | owen | tonorm | i4Add | i4Sub | i4Mul | i4And | i4Or | i4Xor | i4Shl | i4Shr | i4Rev | i4Tonorm
    | hash4 | owen4 => exact ⟨_, _, withRequest_cons _ h, rfl, rfl⟩

/-- The state with earlier exchanges before those it has recorded. -/
def State.recordedAfter (past : List Exchange) (s : State) : State := { s with delivered := past ++ s.delivered }

/-- The outcome of a step, with earlier exchanges before those recorded. -/
def outcomeAfter (past : List Exchange) : StepOutcome → StepOutcome
  | .next s => .next (s.recordedAfter past)
  | .fault f => .fault f
  | .refused q => .refused q

section record
variable (past : List Exchange) (s : State) (r : Request) (rest : List Request)

theorem complete_recordedAfter (resp : Response) :
    complete (s.recordedAfter past) r rest resp = (complete s r rest resp).recordedAfter past := by
  simp only [complete, State.recordedAfter, List.append_assoc]

theorem completeDrawn_recordedAfter (n : Nat) (make : Nat → Int4) :
    completeDrawn (s.recordedAfter past) r rest n make = (completeDrawn s r rest n make).recordedAfter past :=
  complete_recordedAfter past { s with draws := s.draws + n } r rest _

theorem succeed_recordedAfter (v : Int4) :
    succeed (s.recordedAfter past) r rest v = outcomeAfter past (succeed s r rest v) :=
  congrArg Host.Outcome.next (complete_recordedAfter past s r rest _)

theorem raise_recordedAfter (code : FaultCode) :
    raise (s.recordedAfter past) r rest code = outcomeAfter past (raise s r rest code) :=
  congrArg Host.Outcome.next (complete_recordedAfter past s r rest _)

theorem sampleIndexOutOfRange_recordedAfter (check : Config.IndexCheck) :
    sampleIndexOutOfRange check (s.recordedAfter past) r rest =
      (sampleIndexOutOfRange check s r rest).recordedAfter past := by
  cases check with
  | validating => exact complete_recordedAfter past s r rest (.fault .indexRange)
  | fast => exact completeDrawn_recordedAfter past s r rest 1 fun n => scalarResult (tonorm (Config.freeWord n))

theorem sample4dIndexOutOfRange_recordedAfter (check : Config.IndexCheck) :
    sample4dIndexOutOfRange check (s.recordedAfter past) r rest =
      (sample4dIndexOutOfRange check s r rest).recordedAfter past := by
  cases check with
  | validating => exact complete_recordedAfter past s r rest (.fault .indexRange)
  | fast => exact completeDrawn_recordedAfter past s r rest 4 drawnLanes

variable {past s}

theorem withRom_outcomeAfter {α : Type} {k k' : α → StepOutcome} (v : Option α)
    (hk : ∀ x, k' x = outcomeAfter past (k x)) :
    withRom v k' = outcomeAfter past (withRom v k) := by
  cases v with
  | none => rfl
  | some x => exact hk x

theorem withRequest_recordedAfter {k k' : Request → List Request → StepOutcome}
    (hk : ∀ r rest, k' r rest = outcomeAfter past (k r rest)) :
    withRequest (s.recordedAfter past) k' = outcomeAfter past (withRequest s k) := by
  cases hq : s.inFlight with
  | nil => simp only [withRequest, State.recordedAfter, hq, outcomeAfter]
  | cons r rest =>
    rw [withRequest_cons k hq, withRequest_cons k' (s := s.recordedAfter past) hq]
    exact hk r rest

end record

/-- No operation reads what was recorded before it: earlier exchanges stay in front, and everything else is as without
them. -/
theorem exec_recordedAfter (past : List Exchange) (i : Instr) (s : State) :
    exec i (s.recordedAfter past) = outcomeAfter past (exec i s) := by
  cases i with
  | rdconst sel =>
    refine withRequest_recordedAfter fun r rest => ?_
    split
    next => exact succeed_recordedAfter past s r rest _
    next => exact raise_recordedAfter past s r rest _
  | sobol =>
    refine withRequest_recordedAfter fun r rest => ?_
    split
    next => exact withRom_outcomeAfter _ fun _ => succeed_recordedAfter past s r rest _
    next => exact raise_recordedAfter past s r rest _
  | sobol4 =>
    refine withRequest_recordedAfter fun r rest => ?_
    split
    next => exact withRom_outcomeAfter _ fun _ => succeed_recordedAfter past s r rest _
    next => exact raise_recordedAfter past s r rest _
  | sample =>
    refine withRequest_recordedAfter fun r rest => ?_
    split_ifs
    next => exact withRom_outcomeAfter _ fun _ => succeed_recordedAfter past s r rest _
    next => exact congrArg Host.Outcome.next (sampleIndexOutOfRange_recordedAfter past s r rest _)
    next => exact raise_recordedAfter past s r rest _
  | sample4d =>
    refine withRequest_recordedAfter fun r rest => ?_
    split_ifs
    next => exact withRom_outcomeAfter _ fun _ => succeed_recordedAfter past s r rest _
    next => exact congrArg Host.Outcome.next (sample4dIndexOutOfRange_recordedAfter past s r rest _)
    next => exact raise_recordedAfter past s r rest _
  | rev32 | hash | owen | tonorm | i4Add | i4Sub | i4Mul | i4And | i4Or | i4Xor | i4Shl | i4Shr | i4Rev | i4Tonorm
  | hash4 | owen4 => exact withRequest_recordedAfter fun r rest => succeed_recordedAfter past s r rest _

/-- No step reads what was recorded before it. -/
theorem step_recordedAfter (past : List Exchange) (s : State) :
    step (s.recordedAfter past) = outcomeAfter past (step s) := by
  cases hq : s.inFlight with
  | nil =>
    rw [step_idle hq]
    exact step_idle hq
  | cons r rest =>
    rw [step_cons hq, step_cons (s := s.recordedAfter past) hq]
    cases decode r.cmd with
    | ok i => exact exec_recordedAfter past i s
    | error _ => exact raise_recordedAfter past s r rest _

/-- Every step has a next state. -/
theorem exists_step_eq_next (s : State) : ∃ t, step s = .next t := by
  cases hq : s.inFlight with
  | nil => exact ⟨s, step_idle hq⟩
  | cons r rest =>
    obtain ⟨t, ht, -⟩ := step_answers hq
    exact ⟨t, ht⟩

/-- An answer by a fault is the plain one: only a result comes with drawn values. -/
theorem Answers.eq_complete_of_fault {s t : State} {r : Request} {rest : List Request} {code : FaultCode}
    (h : Answers s r rest t) (hdelivered : t.delivered = s.delivered ++ [⟨r, .fault code⟩]) :
    t = complete s r rest (.fault code) := by
  cases h with
  | answered resp =>
    obtain rfl : resp = .fault code := by simpa using hdelivered
    rfl
  | drawn n make => simp at hdelivered

/-- Settles O14: the run without the faulting request and the run after it differ only in the exchanges recorded before, so
their next steps do what the step from an empty record does. -/
theorem faultLeavesNothingBehind : Obligations.FaultLeavesNothingBehind := by
  intro s r rest code t h hstep hdelivered
  obtain ⟨t', ht', hanswers⟩ := step_answers h
  obtain rfl : t = t' := Host.Outcome.next.inj (hstep.symm.trans ht')
  obtain rfl := hanswers.eq_complete_of_fault hdelivered
  obtain ⟨u, hu⟩ := exists_step_eq_next { s with inFlight := rest, delivered := [] }
  have hnext (past : List Exchange) :
      step { s with inFlight := rest, delivered := past } = .next (u.recordedAfter past) := by
    have hpast := step_recordedAfter past { s with inFlight := rest, delivered := [] }
    rw [hu] at hpast
    simpa only [State.recordedAfter, List.append_nil, outcomeAfter] using hpast
  refine ⟨rfl, _, _, u.delivered, hnext s.delivered, hnext (s.delivered ++ [(⟨r, .fault code⟩ : Exchange)]), rfl, ?record,
    rfl, rfl, rfl⟩
  simp only [State.recordedAfter, List.append_assoc, List.singleton_append]

end Sys2Proof.Machine

/-!
PROOFS. The order of the port's responses along a run, and reset while requests are in flight (30_encoding.md R36;
70_reset_and_hazards.md R150, R157, R159).
-/
namespace Sys2Proof.Machine

/-- All requests the block has been given: those answered, in the order of their responses, then those still waiting. -/
def State.requests (s : State) : List Request := s.delivered.map Exchange.request ++ s.inFlight

/-- With none in flight, the requests given are the requests answered. -/
theorem requests_of_inFlight_eq_nil {s : State} (h : s.inFlight = []) : s.requests = s.delivered.map Exchange.request := by
  rw [State.requests, h, List.append_nil]

/-- An answer moves the oldest waiting request behind those answered before it. -/
theorem Answers.requests {s t : State} {r : Request} {rest : List Request} (h : Answers s r rest t)
    (hq : s.inFlight = r :: rest) : t.requests = s.requests := by
  obtain ⟨resp, hdelivered⟩ := h.delivered
  simp only [State.requests, hdelivered, h.inFlight, hq, List.map_append, List.map_cons, List.map_nil, List.append_assoc,
    List.singleton_append]

/-- A step neither loses, adds nor reorders a request. -/
theorem step_requests {s t : State} (h : step s = .next t) : t.requests = s.requests := by
  cases hq : s.inFlight with
  | nil =>
    obtain rfl : s = t := Host.Outcome.next.inj ((step_idle hq).symm.trans h)
    rfl
  | cons r rest =>
    obtain ⟨u, hu, hanswers⟩ := step_answers hq
    obtain rfl : u = t := Host.Outcome.next.inj (hu.symm.trans h)
    exact hanswers.requests hq

/-- No run loses, adds or reorders a request. -/
theorem run_requests {n : Nat} {s t : State} (h : Host.Core.run Sys2Proof.core n s = .next t) : t.requests = s.requests :=
  run_keeps (P := fun u => u.requests = s.requests) (fun hstep hu => (step_requests hstep).trans hu) h rfl

/-- A run as long as the queue does not stop, and empties it: each step answers one request. -/
theorem exists_run_empties {queue : List Request} {s : State} (hq : s.inFlight = queue) :
    ∃ t, Host.Core.run Sys2Proof.core queue.length s = .next t ∧ t.inFlight = [] := by
  induction queue generalizing s with
  | nil => exact ⟨s, run_zero s, hq⟩
  | cons r rest ih =>
    obtain ⟨u, hu, hanswers⟩ := step_answers hq
    obtain ⟨t, ht, hempty⟩ := ih hanswers.inFlight
    exact ⟨t, (run_succ rest.length hu).trans ht, hempty⟩

/-- Settles O10: the run empties the queue, and it keeps the answered requests followed by the waiting ones. -/
theorem runAnswersEveryRequestInOrder : Obligations.RunAnswersEveryRequestInOrder := by
  intro s
  obtain ⟨t, ht, hempty⟩ := exists_run_empties (s := s) rfl
  exact ⟨t, ht, hempty, run_rom ht, (requests_of_inFlight_eq_nil hempty).symm.trans (run_requests ht)⟩

/-- Reset leaves an intact ROM intact. -/
theorem romIntact_applyReset {s : State} (h : romIntact s = true) : romIntact s.applyReset = true :=
  romIntact_iff.mpr ((applyReset_rom s).trans (romIntact_iff.mp h))

/-- A request presented right after reset is the only one in flight. -/
theorem applyReset_present_inFlight (s : State) (r : Request) : (s.applyReset.present r).inFlight = [r] := by
  rw [present_inFlight, applyReset_inFlight, List.nil_append]

/-- Settles O20: reset empties the queue and touches nothing else, so the next step answers the request presented after. -/
theorem resetDropsRequestsInFlight : Obligations.ResetDropsRequestsInFlight := by
  intro s r
  obtain ⟨t, ht, hanswers⟩ := step_answers (applyReset_present_inFlight s r)
  obtain ⟨resp, hdelivered⟩ := hanswers.delivered
  have image (hs : romIntact s = true) : ∀ g < 64, ∀ l < 16, ∀ k < 4,
      s.applyReset.rom.readWord Config.geometry (waddr g l k) = some (dvImage g l k) :=
    fun _ hg _ hl _ hk => readWord_waddr_of_romIntact (romIntact_applyReset hs) hg hl hk
  rw [present_delivered, applyReset_delivered] at hdelivered
  exact ⟨applyReset_inFlight s, applyReset_rom s, applyReset_delivered s, image, t, resp, ht, hanswers.inFlight, hdelivered⟩

end Sys2Proof.Machine

/-!
PROOFS. The opcode map as a whole: its rows are disjoint, decoding and encoding undo each other, and exactly 84 command words
are legal (30_encoding.md R37, R43, R44; 95_test_vectors.md V1).
-/
namespace Sys2Proof.Machine

/-- Each row of the opcode map has an `OP` code of its own. -/
theorem opcodeTable_map_opField_nodup : (opcodeTable.map fun row => opField row.bits).Nodup := by
  rw [opcodeTable_map_opField]
  decide

/-- Two rows that one word selects both have the word's `OP`. -/
theorem opField_eq_of_selects {cmd : Word} {p q : OpcodeRow} (hp : p ∈ opcodeTable) (hq : q ∈ opcodeTable)
    (hselp : p.selects cmd = true) (hselq : q.selects cmd = true) : opField p.bits = opField q.bits := by
  obtain ⟨hopp, -⟩ := (selects_iff hp cmd).mp hselp
  obtain ⟨hopq, -⟩ := (selects_iff hq cmd).mp hselq
  exact hopp.symm.trans hopq

/-- Settles O3: two rows that one word selects share their `OP`, and no two rows of the map do. -/
theorem noWordSelectsTwoRows : Obligations.NoWordSelectsTwoRows := fun _ =>
  (List.pairwise_map.mp opcodeTable_map_opField_nodup).imp_of_mem fun hp hq hne ⟨hselp, hselq⟩ =>
    hne (opField_eq_of_selects hp hq hselp hselq)

/-- A decoded word selects the row that builds its instruction. -/
theorem exists_row_of_decode {cmd : Word} {i : Instr} (h : decode cmd = .ok i) :
    ∃ row ∈ opcodeTable, row.selects cmd = true ∧ row.build (shField cmd) = i := by
  rw [decode] at h
  split at h
  next row hfind =>
    exact ⟨row, List.mem_of_find?_eq_some hfind,
      List.find?_some (p := fun row : OpcodeRow => row.selects cmd) hfind, Except.ok.inj h⟩
  next => cases h

/-- The row a word selects decodes it: it is the only one, so its place in the map plays no part. -/
theorem decode_of_selects {cmd : Word} {row : OpcodeRow} (hrow : row ∈ opcodeTable) (hsel : row.selects cmd = true) :
    decode cmd = .ok (row.build (shField cmd)) := by
  obtain ⟨i, hi⟩ := (decode_ok_iff_selects cmd).mpr ⟨row, hrow, hsel⟩
  obtain ⟨row', hrow', hsel', rfl⟩ := exists_row_of_decode hi
  have hsame : row' = row :=
    List.inj_on_of_nodup_map opcodeTable_map_opField_nodup hrow' hrow (opField_eq_of_selects hrow' hrow hsel' hsel)
  rw [hi, hsame]

/-- With an `SH` its row allows, a row builds a well-formed instruction, whose command word is the row's `OP` with that
`SH`. -/
theorem encode_build : ∀ row ∈ opcodeTable, ∀ sh : BitVec 5, sh &&& fixedShBits (opField row.bits) = 0 →
    (row.build sh).wf = true ∧ encode (row.build sh) = commandWord (opField row.bits) sh := by decide

/-- The rows of the three instructions with a field. -/
theorem fieldRows_mem : ⟨0xFFFFFEFF, 0x00000001, .rdconst⟩ ∈ opcodeTable ∧ ⟨0xFFFFE0FF, 0x00000026, .i4Shl⟩ ∈ opcodeTable ∧
    ⟨0xFFFFE0FF, 0x00000027, .i4Shr⟩ ∈ opcodeTable := by
  simp [opcodeTable]

/-- Every well-formed instruction is built by a row of the map from an `SH` the row allows: its field, or 0 where it has
none. -/
theorem exists_row_of_wf {i : Instr} (h : i.wf = true) :
    ∃ row ∈ opcodeTable, ∃ sh, sh &&& fixedShBits (opField row.bits) = 0 ∧ row.build sh = i := by
  obtain ⟨hrdconst, hshl, hshr⟩ := fieldRows_mem
  cases i with
  | rdconst sel =>
    have hsel : ¬2 ≤ sel.toNat := Nat.not_le.mpr (of_decide_eq_true h)
    exact ⟨_, hrdconst, sel, not_not.mp (mt (selector_and_ne_zero_iff sel).mp hsel), rfl⟩
  | i4Shl sh => exact ⟨_, hshl, sh, BitVec.and_zero, rfl⟩
  | i4Shr sh => exact ⟨_, hshr, sh, BitVec.and_zero, rfl⟩
  | rev32 | hash | owen | sobol | tonorm | sample | i4Add | i4Sub | i4Mul | i4And | i4Or | i4Xor | i4Rev | i4Tonorm
  | hash4 | owen4 | sobol4 | sample4d => decide

/-- Settles O1: the command word of an instruction selects the row that builds it, with its field in `SH`. -/
theorem decodeOfEncodeIsTheInstruction : Obligations.DecodeOfEncodeIsTheInstruction := by
  intro i hwf
  obtain ⟨row, hrow, sh, hsh, rfl⟩ := exists_row_of_wf hwf
  obtain ⟨-, hencode⟩ := encode_build row hrow sh hsh
  have hsel : row.selects (commandWord (opField row.bits) sh) = true := by
    rw [selects_iff hrow, opField_commandWord, Laws.rsvField_commandWord, shField_commandWord]
    exact ⟨rfl, rfl, hsh⟩
  rw [hencode, decode_of_selects hrow hsel, shField_commandWord]

/-- A command word whose `RSV` is 0 is made of its `OP` and its `SH`. -/
theorem commandWord_fields {cmd : Word} (h : rsvField cmd = 0) : commandWord (opField cmd) (shField cmd) = cmd := by
  rw [command_eq_iff, opField_commandWord, Laws.rsvField_commandWord, shField_commandWord, h]
  exact ⟨rfl, rfl, rfl⟩

/-- Settles O2: the row that decodes a word fixes every bit of it outside `SH`, and encodes what it builds from `SH`. -/
theorem encodeOfDecodeIsTheWord : Obligations.EncodeOfDecodeIsTheWord := by
  intro cmd i hdec
  obtain ⟨row, hrow, hsel, rfl⟩ := exists_row_of_decode hdec
  obtain ⟨hop, hrsv, hsh⟩ := (selects_iff hrow cmd).mp hsel
  obtain ⟨hwf, hencode⟩ := encode_build row hrow (shField cmd) hsh
  exact ⟨hwf, by rw [hencode, ← hop, commandWord_fields hrsv]⟩

/-- The pairs of an assigned `OP` and an `SH` its row allows. -/
def legalFields : List (BitVec 8 × BitVec 5) :=
  (assignedOps ×ˢ (List.range 32).map (BitVec.ofNat 5)).filter fun p => p.2 &&& fixedShBits p.1 == 0

theorem mem_legalFields (op : BitVec 8) (sh : BitVec 5) :
    (op, sh) ∈ legalFields ↔ op ∈ assignedOps ∧ sh &&& fixedShBits op = 0 := by
  have hsh : sh ∈ (List.range 32).map (BitVec.ofNat 5) :=
    List.mem_map.mpr ⟨sh.toNat, List.mem_range.mpr sh.isLt, BitVec.ofNat_toNat 5 sh ▸ BitVec.setWidth_eq sh⟩
  simp [legalFields, hsh]

theorem legalFields_nodup : legalFields.Nodup := by
  have hshs : ((List.range 32).map (BitVec.ofNat 5)).Nodup :=
    List.nodup_range.map_on fun i hi j hj hij => by
      simpa [Nat.mod_eq_of_lt (List.mem_range.mp hi), Nat.mod_eq_of_lt (List.mem_range.mp hj)] using
        congrArg BitVec.toNat hij
  exact (List.Nodup.product (opcodeTable_map_opField ▸ opcodeTable_map_opField_nodup) hshs).filter _

/-- 2 for RDCONST, 32 for each shift, 18 others (95_test_vectors.md V1). -/
theorem legalFields_length : legalFields.length = 84 := by decide +kernel

/-- The fields can be read back from the command word. -/
theorem commandWord_injective : Function.Injective (Function.uncurry commandWord) := by
  rintro ⟨op, sh⟩ ⟨op', sh'⟩ hpq
  have hop := congrArg opField hpq
  have hsh := congrArg shField hpq
  simp only [Function.uncurry_apply_pair, opField_commandWord, shField_commandWord] at hop hsh
  rw [hop, hsh]

/-- Settles O4: the command words of the 84 legal pairs of fields. -/
theorem exactlyEightyFourLegalWords : Obligations.ExactlyEightyFourLegalWords := by
  refine ⟨legalFields.map (Function.uncurry commandWord), legalFields_nodup.map commandWord_injective,
    (List.length_map _).trans legalFields_length, fun cmd => ?_⟩
  rw [decode_ok_iff_fields, List.mem_map]
  constructor
  · rintro ⟨hop, hrsv, hsh⟩
    exact ⟨_, (mem_legalFields _ _).mpr ⟨hop, hsh⟩, commandWord_fields hrsv⟩
  · rintro ⟨⟨op, sh⟩, hmem, rfl⟩
    rw [Function.uncurry_apply_pair, opField_commandWord, Laws.rsvField_commandWord, shField_commandWord]
    obtain ⟨hop, hsh⟩ := (mem_legalFields op sh).mp hmem
    exact ⟨hop, rfl, hsh⟩

/-- Settles O6: each of the eight words selects its row. -/
theorem sampleCommandWordsReadRight : Obligations.SampleCommandWordsReadRight :=
  ⟨rfl, rfl, rfl, rfl, rfl, rfl, rfl, rfl⟩

end Sys2Proof.Machine

/-!
PROOFS. What a response depends on, the frame of the operations, and what every step and every run keeps: no fault on requests
in range, and the machine's invariant (30_encoding.md R39, R40; 60_exceptions.md R137 to R147; 70_reset_and_hazards.md R156,
R162).
-/
namespace Sys2Proof.Machine

/-- Settles O8: the step of a request in flight, with its word decoded. -/
theorem stepRunsTheDecodedInstruction : Obligations.StepRunsTheDecodedInstruction := by
  intro s r rest i h hdec
  rw [step_cons h, hdec]

/-- An answer records one exchange, and may have drawn values. -/
theorem Answers.eq_mk {s t : State} {r : Request} {rest : List Request} (h : Answers s r rest t) :
    ∃ (resp : Response) (n : Nat),
      t = { rom := s.rom, inFlight := rest, delivered := s.delivered ++ [⟨r, resp⟩], draws := s.draws + n } := by
  cases h with
  | answered resp => exact ⟨resp, 0, rfl⟩
  | drawn n make => exact ⟨_, n, rfl⟩

/-- Settles O9: a step answers the oldest request, and an idle block stays as it is. -/
theorem stepAnswersTheOldestRequest : Obligations.StepAnswersTheOldestRequest := by
  refine ⟨fun s r rest h => ?_, fun s h => step_idle h⟩
  obtain ⟨t, ht, hanswers⟩ := step_answers h
  obtain ⟨resp, n, rfl⟩ := hanswers.eq_mk
  exact ⟨resp, n, ht⟩

/-- Two outcomes answer the oldest requests of two states by the same response, and do nothing else. -/
def AnsweredAlike (s s' : State) (r r' : Request) (rest rest' : List Request) (o o' : StepOutcome) : Prop :=
  ∃ resp : Response, o = .next (complete s r rest resp) ∧ o' = .next (complete s' r' rest' resp)

section alike
variable {s s' : State} {r r' : Request} {rest rest' : List Request} (h : s.inFlight = r :: rest)
  (h' : s'.inFlight = r' :: rest')

include h h'

/-- An operation that completes every request by a function of its operands. -/
theorem answeredAlike_of_succeed {f : Request → Int4} (hf : f r = f r') :
    AnsweredAlike s s' r r' rest rest' (withRequest s fun r rest => succeed s r rest (f r))
      (withRequest s' fun r rest => succeed s' r rest (f r)) :=
  ⟨_, withRequest_cons _ h, (withRequest_cons _ h').trans (by rw [hf]; rfl)⟩

theorem rdconstOn_answeredAlike (geo : Config.Geometry) (sel : BitVec 5) :
    AnsweredAlike s s' r r' rest rest' (rdconstOn geo sel s) (rdconstOn geo sel s') := by
  rw [rdconstOn, rdconstOn, withRequest_cons _ h, withRequest_cons _ h']
  cases readConst geo sel with
  | some w => exact ⟨_, rfl, rfl⟩
  | none => exact ⟨_, rfl, rfl⟩

variable (hrom : s.rom = s'.rom) (hA : scalar1 r = scalar1 r') (hB : scalar2 r = scalar2 r')
include hrom hA hB

theorem sobolOn_answeredAlike (geo : Config.Geometry) :
    AnsweredAlike s s' r r' rest rest' (sobolOn geo s) (sobolOn geo s') := by
  by_cases hd : (scalar2 r).toNat < geo.numDimensions
  · have hfold := fold_eq_unmasked s.rom (scalar1 r) hd
    exact ⟨_, sobolOn_of_fold h hd hfold, sobolOn_of_fold h' (hB ▸ hd) (hrom ▸ hA ▸ hB ▸ hfold)⟩
  · exact ⟨_, sobolOn_of_not_lt h hd, sobolOn_of_not_lt h' (hB ▸ hd)⟩

theorem sobol4On_answeredAlike (geo : Config.Geometry) :
    AnsweredAlike s s' r r' rest rest' (sobol4On geo s) (sobol4On geo s') := by
  by_cases hg : (scalar2 r).toNat < geo.numDimensionSets4D
  · have hfold4 := fold4_eq_unmasked s.rom (scalar1 r) Config.datapath hg
    exact ⟨_, sobol4On_of_fold4 h hg hfold4, sobol4On_of_fold4 h' (hB ▸ hg) (hrom ▸ hA ▸ hB ▸ hfold4)⟩
  · exact ⟨_, sobol4On_of_not_lt h hg, sobol4On_of_not_lt h' (hB ▸ hg)⟩

variable (hseed : scalar3 r = scalar3 r')
include hseed

/-- SAMPLE with its dimension out of range or its index below 2^16. -/
theorem sampleOn_answeredAlike {geo : Config.Geometry}
    (hclosed : (scalar2 r).toNat < geo.numDimensions → (scalar1 r).toNat < 65536) :
    AnsweredAlike s s' r r' rest rest' (sampleOn geo s) (sampleOn geo s') := by
  by_cases hd : (scalar2 r).toNat < geo.numDimensions
  · obtain ⟨v, hv⟩ := sample_isSome Config.constants s.rom (scalar1 r) (scalar3 r) ((dimensionInRange_iff geo _).mpr hd)
    exact ⟨_, sampleOn_of_sample h hd (hclosed hd) hv,
      sampleOn_of_sample h' (hB ▸ hd) (hA ▸ hclosed hd) (hrom ▸ hA ▸ hB ▸ hseed ▸ hv)⟩
  · exact ⟨_, sampleOn_of_not_lt h hd, sampleOn_of_not_lt h' (hB ▸ hd)⟩

/-- SAMPLE4D with its dimension set out of range or its index below 2^16. -/
theorem sample4dOn_answeredAlike {geo : Config.Geometry}
    (hclosed : (scalar2 r).toNat < geo.numDimensionSets4D → (scalar1 r).toNat < 65536) :
    AnsweredAlike s s' r r' rest rest' (sample4dOn geo s) (sample4dOn geo s') := by
  by_cases hg : (scalar2 r).toNat < geo.numDimensionSets4D
  · obtain ⟨v, hv⟩ := sample4d_isSome Config.datapath Config.constants s.rom (scalar1 r) (scalar3 r)
      ((dimensionSetInRange_iff geo _).mpr hg)
    exact ⟨_, sample4dOn_of_sample4d h hg (hclosed hg) hv,
      sample4dOn_of_sample4d h' (hB ▸ hg) (hA ▸ hclosed hg) (hrom ▸ hA ▸ hB ▸ hseed ▸ hv)⟩
  · exact ⟨_, sample4dOn_of_not_lt h hg, sample4dOn_of_not_lt h' (hB ▸ hg)⟩

end alike

/-- The dimension range and the index range leave SAMPLE's response open only together (44_sampling.md R92). -/
theorem index_lt_of_responseOpen_sample {r : Request} (h : responseOpen .sample r = false) :
    (scalar2 r).toNat < Config.geometry.numDimensions → (scalar1 r).toNat < 65536 := by
  rw [← dimensionInRange_iff, ← indexInRange_iff]
  simpa only [responseOpen, Bool.and_eq_false_imp, Bool.not_eq_false'] using h

theorem index_lt_of_responseOpen_sample4d {r : Request} (h : responseOpen .sample4d r = false) :
    (scalar2 r).toNat < Config.geometry.numDimensionSets4D → (scalar1 r).toNat < 65536 := by
  rw [← dimensionSetInRange_iff, ← indexInRange_iff]
  simpa only [responseOpen, Bool.and_eq_false_imp, Bool.not_eq_false'] using h

/-- Settles O12: the operations that check no range are functions of the lanes they use; the others make the same checks and
read the same ROM words. -/
theorem unusedOperandLanesAreIgnored : Obligations.UnusedOperandLanesAreIgnored := by
  intro i s s' r r' rest rest' h h' hrom hagree hclosed
  cases i with
  | rdconst sel => exact rdconstOn_answeredAlike h h' Config.geometry sel
  | rev32 | hash | tonorm | i4Shl | i4Shr | i4Rev | i4Tonorm | hash4 =>
    simp only [usedOperandsAgree, beq_iff_eq] at hagree
    exact answeredAlike_of_succeed h h' (by rw [hagree])
  | owen | i4Add | i4Sub | i4Mul | i4And | i4Or | i4Xor | owen4 =>
    simp only [usedOperandsAgree, Bool.and_eq_true, beq_iff_eq] at hagree
    obtain ⟨hA, hB⟩ := hagree
    exact answeredAlike_of_succeed h h' (by rw [hA, hB])
  | sobol =>
    simp only [usedOperandsAgree, Bool.and_eq_true, beq_iff_eq] at hagree
    obtain ⟨hA, hB⟩ := hagree
    exact sobolOn_answeredAlike h h' hrom hA hB Config.geometry
  | sobol4 =>
    simp only [usedOperandsAgree, Bool.and_eq_true, beq_iff_eq] at hagree
    obtain ⟨hA, hB⟩ := hagree
    exact sobol4On_answeredAlike h h' hrom hA hB Config.geometry
  | sample =>
    simp only [usedOperandsAgree, Bool.and_eq_true, beq_iff_eq] at hagree
    obtain ⟨⟨hA, hB⟩, hseed⟩ := hagree
    exact sampleOn_answeredAlike h h' hrom hA hB hseed (index_lt_of_responseOpen_sample hclosed)
  | sample4d =>
    simp only [usedOperandsAgree, Bool.and_eq_true, beq_iff_eq] at hagree
    obtain ⟨⟨hA, hB⟩, hseed⟩ := hagree
    exact sample4dOn_answeredAlike h h' hrom hA hB hseed (index_lt_of_responseOpen_sample4d hclosed)

/-- A request agrees with itself. -/
theorem usedOperandsAgree_self (i : Instr) (r : Request) : usedOperandsAgree i r r = true := by
  cases i <;> simp [usedOperandsAgree]

/-- An operation whose response is not open answers the request and draws no value. -/
theorem exec_of_responseOpen_eq_false {i : Instr} {s : State} {r : Request} {rest : List Request}
    (h : s.inFlight = r :: rest) (hclosed : responseOpen i r = false) :
    ∃ resp, exec i s = .next (complete s r rest resp) := by
  obtain ⟨resp, hexec, -⟩ :=
    unusedOperandLanesAreIgnored i s s r r rest rest h h rfl (usedOperandsAgree_self i r) hclosed
  exact ⟨resp, hexec⟩

/-- Settles O21: the ROM's list is the same, and with it every byte; the request answered is the oldest. -/
theorem execChangesNothingElse : Obligations.ExecChangesNothingElse := by
  intro i s t hexec
  obtain ⟨r, rest, h, hanswers⟩ := exec_eq_next hexec
  obtain ⟨resp, hdelivered⟩ := hanswers.delivered
  refine ⟨hanswers.rom, fun a => by rw [hanswers.rom], r, rest, resp, h, hanswers.inFlight, hdelivered, fun hclosed => ?_⟩
  obtain ⟨resp', hcomplete⟩ := exec_of_responseOpen_eq_false h hclosed
  obtain rfl : t = complete s r rest resp' := Host.Outcome.next.inj (hexec.symm.trans hcomplete)
  exact complete_draws s r rest resp'

/-! ## Independence of requests (70_reset_and_hazards.md R156) -/

/-- The spec does not leave the response to this request open. -/
def HasClosedResponse (r : Request) : Prop := ∀ i, decode r.cmd = .ok i → responseOpen i r = false

/-- A closed response is a function of the request and the ROM. -/
theorem step_answeredAlike {s s' : State} {r : Request} {rest rest' : List Request} (h : s.inFlight = r :: rest)
    (h' : s'.inFlight = r :: rest') (hrom : s.rom = s'.rom) (hclosed : HasClosedResponse r) :
    AnsweredAlike s s' r r rest rest' (step s) (step s') := by
  rw [step_cons h, step_cons h']
  cases hdec : decode r.cmd with
  | error _ => exact ⟨_, rfl, rfl⟩
  | ok i =>
    exact unusedOperandLanesAreIgnored i s s' r r rest rest' h h' hrom (usedOperandsAgree_self i r) (hclosed i hdec)

/-- What a block with this ROM delivers when it is given this one request after reset. -/
def soloExchanges (rom : Memory) (r : Request) : List Exchange :=
  match step { State.reset with rom := rom, inFlight := [r] } with
  | .next t => t.delivered
  | _ => []

/-- A step delivers what the block would deliver for its oldest request alone. -/
theorem step_delivers_soloExchanges {s : State} {r : Request} {rest : List Request} (h : s.inFlight = r :: rest)
    (hclosed : HasClosedResponse r) :
    ∃ t, step s = .next t ∧ t.rom = s.rom ∧ t.inFlight = rest ∧
      t.delivered = s.delivered ++ soloExchanges s.rom r := by
  obtain ⟨resp, hstep, hsolo⟩ := step_answeredAlike (s' := { State.reset with rom := s.rom, inFlight := [r] }) h rfl rfl hclosed
  refine ⟨_, hstep, complete_rom _ _ _ _, complete_inFlight _ _ _ _, ?_⟩
  rw [soloExchanges, hsolo]
  rfl

/-- A run as long as the queue delivers what the block would deliver for each of its requests alone. -/
theorem run_delivers_soloExchanges {queue : List Request} {s : State} (hq : s.inFlight = queue)
    (hclosed : ∀ r ∈ queue, HasClosedResponse r) :
    ∃ t, Host.Core.run Sys2Proof.core queue.length s = .next t ∧
      t.delivered = s.delivered ++ queue.flatMap (soloExchanges s.rom) := by
  induction queue generalizing s with
  | nil => exact ⟨s, run_zero s, by simp⟩
  | cons r rest ih =>
    obtain ⟨hr, hrest⟩ := List.forall_mem_cons.mp hclosed
    obtain ⟨u, hu, hrom, hqueue, hdelivered⟩ := step_delivers_soloExchanges hq hr
    obtain ⟨t, ht, hrun⟩ := ih hqueue hrest
    refine ⟨t, (run_succ rest.length hu).trans ht, ?_⟩
    rw [hrun, hdelivered, hrom, List.flatMap_cons, List.append_assoc]

/-- Settles O11: two runs deliver, request by request, what the block delivers for the request alone; so the same requests in
another order give the same exchanges in that order. -/
theorem requestsAreIndependent : Obligations.RequestsAreIndependent := by
  refine ⟨fun s s' r rest rest' h h' hrom hclosed => step_answeredAlike h h' hrom hclosed, fun s s' hperm hrom hclosed => ?_⟩
  obtain ⟨t, ht, hdelivered⟩ := run_delivers_soloExchanges rfl hclosed
  obtain ⟨t', ht', hdelivered'⟩ := run_delivers_soloExchanges (s := s') rfl fun r hr => hclosed r (hperm.mem_iff.mpr hr)
  exact ⟨t, t', _, _, ht, ht', hdelivered, hdelivered', hrom ▸ hperm.flatMap_right _⟩

/-! ## Runs of requests in range (60_exceptions.md R137 to R141, 70_reset_and_hazards.md R162) -/

/-- A request in range is answered by a result: its status is none of the fault codes (O13). -/
theorem step_of_requestInRange {s : State} {r : Request} {rest : List Request} (h : s.inFlight = r :: rest)
    (hr : requestInRange r = true) :
    ∃ (t : State) (v : Wide), step s = .next t ∧ t.delivered = s.delivered ++ [⟨r, .ok v⟩] := by
  obtain ⟨t, resp, hstep, hdelivered, hstatus⟩ := responseStatusIsExactly s r rest h
  have hok : responseStatus resp = 0x00 := by
    rw [hstatus]
    rw [requestInRange] at hr
    cases hdec : decode r.cmd with
    | error _ => simp [hdec] at hr
    | ok i =>
      rw [hdec] at hr
      cases i with
      | sobol => exact if_pos ((dimensionInRange_iff _ _).mp hr)
      | sobol4 => exact if_pos ((dimensionSetInRange_iff _ _).mp hr)
      | sample =>
        obtain ⟨hd, hn⟩ := Bool.and_eq_true_iff.mp hr
        exact (if_pos ((dimensionInRange_iff _ _).mp hd)).trans (if_pos ((indexInRange_iff _).mp hn))
      | sample4d =>
        obtain ⟨hg, hn⟩ := Bool.and_eq_true_iff.mp hr
        exact (if_pos ((dimensionSetInRange_iff _ _).mp hg)).trans (if_pos ((indexInRange_iff _).mp hn))
      | rdconst | rev32 | hash | owen | tonorm | i4Add | i4Sub | i4Mul | i4And | i4Or | i4Xor | i4Shl | i4Shr | i4Rev
      | i4Tonorm | hash4 | owen4 => rfl
  cases resp with
  | ok v => exact ⟨t, v, hstep, hdelivered⟩
  | fault code => cases code <;> cases hok

/-- No fault has been delivered, and none of the requests in flight can give one. -/
def FaultFree (s : State) : Prop := wentWrong s = false ∧ ∀ r ∈ s.inFlight, requestInRange r = true

/-- Every step keeps a run free of faults. -/
theorem step_faultFree {s t : State} (hstep : step s = .next t) (hs : FaultFree s) : FaultFree t := by
  obtain ⟨hright, hrange⟩ := hs
  cases hq : s.inFlight with
  | nil =>
    obtain rfl : s = t := Host.Outcome.next.inj ((step_idle hq).symm.trans hstep)
    exact ⟨hright, hrange⟩
  | cons r rest =>
    rw [hq] at hrange
    obtain ⟨hr, hrest⟩ := List.forall_mem_cons.mp hrange
    obtain ⟨u, v, hu, hdelivered⟩ := step_of_requestInRange hq hr
    obtain ⟨w, hw, hanswers⟩ := step_answers hq
    obtain rfl : u = t := Host.Outcome.next.inj (hu.symm.trans hstep)
    obtain rfl : w = u := Host.Outcome.next.inj (hw.symm.trans hstep)
    refine ⟨?_, hanswers.inFlight ▸ hrest⟩
    rw [wentWrong] at hright ⊢
    rw [hdelivered, List.any_append, hright]
    rfl

/-- No run stops. -/
theorem exists_run_eq_next (n : Nat) (s : State) : ∃ t, Host.Core.run Sys2Proof.core n s = .next t := by
  induction n generalizing s with
  | zero => exact ⟨s, run_zero s⟩
  | succ n ih =>
    obtain ⟨u, hu⟩ := exists_step_eq_next s
    obtain ⟨t, ht⟩ := ih u
    exact ⟨t, (run_succ n hu).trans ht⟩

/-- Settles O15: no run stops, and every step keeps it free of faults. -/
theorem inRangeRunsNeverGoWrong : Obligations.InRangeRunsNeverGoWrong := by
  intro s n hright hrange
  obtain ⟨t, ht⟩ := exists_run_eq_next n s
  obtain ⟨hright', -⟩ := run_keeps step_faultFree ht ⟨hright, hrange⟩
  exact ⟨t, ht, hright'⟩

/-! ## The machine's invariant (30_encoding.md R39, 44_sampling.md R103, 60_exceptions.md R137) -/

/-- Settles O17: reset lists nothing in the ROM and has delivered nothing. -/
theorem resetMeetsTheInvariant : Obligations.ResetMeetsTheInvariant := rfl

theorem machineInvariant_iff (s : State) :
    machineInvariant s = true ↔
      Memory.wf Config.geometry s.rom = true ∧ ∀ e ∈ s.delivered, exchangeConforms e = true := by
  rw [machineInvariant, Bool.and_eq_true, List.all_eq_true]

/-- `tonorm` gives an output of the block: its value is the top 23 bits times `2^-23` (44_sampling.md R98, R103). -/
theorem unitFloat_tonorm (n : Word) : unitFloat (tonorm n) = true := by
  obtain ⟨hsign, hvalue⟩ := tonorm_exact n
  have hlt : n.toNat / 2 ^ 9 < 2 ^ 23 := by have := n.isLt; omega
  rw [unitFloat, hsign, hvalue]
  generalize n.toNat / 2 ^ 9 = k at hlt
  simp only [Bool.not_false, Bool.true_and, Bool.and_eq_true, beq_iff_eq, decide_eq_true_eq]
  omega

/-- Settles O45: the subtraction is `tonorm` (44_sampling.md R98), whose value is in [0, 1). -/
theorem tonormIsTheFloatSubtraction : Obligations.TonormIsTheFloatSubtraction := fun n =>
  ⟨(tonormFloat_eq_tonorm n).symm, unitFloat_tonorm n⟩

/-- An `Int4` whose lanes `tonorm` has made has all four in [0, 1). -/
theorem unitLanes_of_tonorm {v : Int4} {y : Fin 4 → Word} (h : ∀ k, v.lane k = tonorm (y k)) : unitLanes v = true := by
  have hlane (k : Fin 4) : unitFloat (v.lane k) = true := h k ▸ unitFloat_tonorm (y k)
  rw [unitLanes, Bool.and_eq_true, Bool.and_eq_true, Bool.and_eq_true]
  exact ⟨⟨⟨hlane 0, hlane 1⟩, hlane 2⟩, hlane 3⟩

/-- Lane 0 of SAMPLE's result is `tonorm` of something (44_sampling.md R99, step 6). -/
theorem exists_tonorm_of_sample {geo : Config.Geometry} {c : Config.Constants} {rom : Memory} {n d seed v : Word}
    (h : sample geo c rom n d seed = some v) : ∃ y, v = tonorm y := by
  obtain ⟨sobol, -, rfl⟩ := Option.map_eq_some_iff.mp h
  exact ⟨_, rfl⟩

/-- SAMPLE4D's result lies in [0, 1) in every lane (44_sampling.md R101, step 6). -/
theorem unitLanes_of_sample4d {geo : Config.Geometry} {dp : Config.Datapath} {c : Config.Constants} {rom : Memory}
    {n g seed : Word} {v : Int4} (h : sample4d geo dp c rom n g seed = some v) : unitLanes v = true := by
  obtain ⟨sobol4, -, rfl⟩ := Option.map_eq_some_iff.mp h
  exact unitLanes_of_tonorm (lane_scrambleAndConvert4_straps dp c sobol4 g seed)

/-- Whether a response is one operation `i` can give. -/
def responseConforms (i : Instr) : Response → Bool
  | .ok v => resultConforms i (unpack v)
  | .fault code => faultConforms i code

theorem exchangeConforms_of_decode {r : Request} {i : Instr} (h : decode r.cmd = .ok i) (resp : Response) :
    exchangeConforms ⟨r, resp⟩ = responseConforms i resp := by
  cases resp <;> simp only [exchangeConforms, h, responseConforms]

theorem responseConforms_ok (i : Instr) (v : Int4) : responseConforms i (.ok (pack v)) = resultConforms i v := by
  rw [responseConforms, unpack_pack]

/-- The outcome answers request `r` of state `s` by a response operation `i` can give. -/
def AnswersConforming (i : Instr) (s : State) (r : Request) (o : StepOutcome) : Prop :=
  ∃ (t : State) (resp : Response), o = .next t ∧ t.delivered = s.delivered ++ [⟨r, resp⟩] ∧ responseConforms i resp = true

theorem answersConforming_of_ok {i : Instr} {s : State} {r : Request} {rest : List Request} {o : StepOutcome} {v : Int4}
    (ho : o = .next (complete s r rest (.ok (pack v)))) (hv : resultConforms i v = true) : AnswersConforming i s r o :=
  ⟨_, _, ho, rfl, (responseConforms_ok i v).trans hv⟩

theorem answersConforming_of_fault {i : Instr} {s : State} {r : Request} {rest : List Request} {o : StepOutcome}
    {code : FaultCode} (ho : o = .next (complete s r rest (.fault code))) (hcode : faultConforms i code = true) :
    AnswersConforming i s r o :=
  ⟨_, _, ho, rfl, hcode⟩

/-- SAMPLE's answer to an index of 2^16 or more conforms: INDEX_RANGE, or a drawn value in [0, 1). -/
theorem sampleIndexOutOfRange_conforms (check : Config.IndexCheck) (s : State) (r : Request) (rest : List Request) :
    AnswersConforming .sample s r (.next (sampleIndexOutOfRange check s r rest)) := by
  cases check with
  | validating => exact answersConforming_of_fault rfl rfl
  | fast =>
    obtain ⟨y, hdelivered⟩ := sampleIndexOutOfRange_fast s r rest
    exact ⟨_, _, rfl, hdelivered, (responseConforms_ok _ _).trans (unitFloat_tonorm y)⟩

/-- SAMPLE4D's answer to an index of 2^16 or more conforms: INDEX_RANGE, or four drawn values in [0, 1). -/
theorem sample4dIndexOutOfRange_conforms (check : Config.IndexCheck) (s : State) (r : Request) (rest : List Request) :
    AnswersConforming .sample4d s r (.next (sample4dIndexOutOfRange check s r rest)) := by
  cases check with
  | validating => exact answersConforming_of_fault rfl rfl
  | fast =>
    obtain ⟨y0, y1, y2, y3, hdelivered⟩ := sample4dIndexOutOfRange_fast s r rest
    exact ⟨_, _, rfl, hdelivered, (responseConforms_ok _ _).trans (unitLanes_of_tonorm (lane_mapLanes tonorm ⟨y0, y1, y2, y3⟩))⟩

section conforming
variable {geo : Config.Geometry} {s : State} {r : Request} {rest : List Request} (h : s.inFlight = r :: rest)
include h

theorem sobolOn_conforms : AnswersConforming .sobol s r (sobolOn geo s) := by
  by_cases hd : (scalar2 r).toNat < geo.numDimensions
  · exact answersConforming_of_ok (sobolOn_of_fold h hd (fold_eq_unmasked s.rom (scalar1 r) hd)) rfl
  · exact answersConforming_of_fault (sobolOn_of_not_lt h hd) rfl

theorem sobol4On_conforms : AnswersConforming .sobol4 s r (sobol4On geo s) := by
  by_cases hg : (scalar2 r).toNat < geo.numDimensionSets4D
  · exact answersConforming_of_ok (sobol4On_of_fold4 h hg (fold4_eq_unmasked s.rom (scalar1 r) _ hg)) rfl
  · exact answersConforming_of_fault (sobol4On_of_not_lt h hg) rfl

theorem sampleOn_conforms : AnswersConforming .sample s r (sampleOn geo s) := by
  by_cases hd : (scalar2 r).toNat < geo.numDimensions
  · by_cases hn : (scalar1 r).toNat < 65536
    · obtain ⟨v, hv⟩ := sample_isSome Config.constants s.rom (scalar1 r) (scalar3 r) ((dimensionInRange_iff geo _).mpr hd)
      obtain ⟨y, rfl⟩ := exists_tonorm_of_sample hv
      exact answersConforming_of_ok (sampleOn_of_sample h hd hn hv) (unitFloat_tonorm y)
    · rw [sampleOn_of_le_index h hd (Nat.not_lt.mp hn)]
      exact sampleIndexOutOfRange_conforms Config.indexCheck s r rest
  · exact answersConforming_of_fault (sampleOn_of_not_lt h hd) rfl

theorem sample4dOn_conforms : AnswersConforming .sample4d s r (sample4dOn geo s) := by
  by_cases hg : (scalar2 r).toNat < geo.numDimensionSets4D
  · by_cases hn : (scalar1 r).toNat < 65536
    · obtain ⟨v, hv⟩ := sample4d_isSome Config.datapath Config.constants s.rom (scalar1 r) (scalar3 r)
        ((dimensionSetInRange_iff geo _).mpr hg)
      exact answersConforming_of_ok (sample4dOn_of_sample4d h hg hn hv) (unitLanes_of_sample4d hv)
    · rw [sample4dOn_of_le_index h hg (Nat.not_lt.mp hn)]
      exact sample4dIndexOutOfRange_conforms Config.indexCheck s r rest
  · exact answersConforming_of_fault (sample4dOn_of_not_lt h hg) rfl

/-- A decoded operation answers by a response it can give. -/
theorem exec_conforms {i : Instr} (hdec : decode r.cmd = .ok i) : AnswersConforming i s r (exec i s) := by
  cases i with
  | sobol => exact sobolOn_conforms h
  | sobol4 => exact sobol4On_conforms h
  | sample => exact sampleOn_conforms h
  | sample4d => exact sample4dOn_conforms h
  | rdconst sel =>
    obtain ⟨w, hw⟩ := readConst_of_decode_rdconst hdec
    exact answersConforming_of_ok (exec_rdconst_of_readConst h hw) rfl
  | tonorm => exact answersConforming_of_ok (exec_tonorm h) (unitFloat_tonorm _)
  | i4Tonorm => exact answersConforming_of_ok (exec_i4Tonorm h) (unitLanes_of_tonorm (lane_i4Tonorm _ _))
  | rev32 | hash | owen | i4Add | i4Sub | i4Mul | i4And | i4Or | i4Xor | i4Shl | i4Shr | i4Rev | hash4 | owen4 =>
    exact answersConforming_of_ok (withRequest_cons _ h) rfl

/-- A step records an exchange that conforms. -/
theorem step_conforms :
    ∃ (t : State) (e : Exchange), step s = .next t ∧ t.delivered = s.delivered ++ [e] ∧ exchangeConforms e = true := by
  rw [step_cons h]
  cases hdec : decode r.cmd with
  | error _ => exact ⟨_, _, rfl, rfl, by simp only [exchangeConforms, hdec]; rfl⟩
  | ok i =>
    obtain ⟨t, resp, ht, hdelivered, hconforms⟩ := exec_conforms h hdec
    exact ⟨t, _, ht, hdelivered, (exchangeConforms_of_decode hdec resp).trans hconforms⟩

end conforming

/-- Settles O16: no step writes the ROM, and the one exchange a step records conforms. -/
theorem stepKeepsTheInvariant : Obligations.StepKeepsTheInvariant := by
  intro s t hs hstep
  rw [machineInvariant_iff] at hs ⊢
  obtain ⟨hrom, hpast⟩ := hs
  refine ⟨step_rom_wf hstep hrom, ?_⟩
  cases hq : s.inFlight with
  | nil =>
    obtain rfl : s = t := Host.Outcome.next.inj ((step_idle hq).symm.trans hstep)
    exact hpast
  | cons r rest =>
    obtain ⟨u, e, hu, hdelivered, hconforms⟩ := step_conforms hq
    obtain rfl : u = t := Host.Outcome.next.inj (hu.symm.trans hstep)
    rw [hdelivered]
    exact List.forall_mem_append.mpr ⟨hpast, List.forall_mem_singleton.mpr hconforms⟩

end Sys2Proof.Machine

/-!
PROOFS. Laws of bit reversal, the conformance suite, and the two operations whose statement is their step list (44_sampling.md
R95, R99; 45_int4.md R117, R124; 43_hash_owen.md R85).
-/
namespace Sys2Proof.Machine

/-- Reversal undoes itself (44_sampling.md R95 (a)). -/
@[simp] theorem rev32_rev32 (x : Word) : rev32 (rev32 x) = x := by
  rw [rev32, rev32, revBits_eq_reverse, revBits_eq_reverse, BitVec.reverse_reverse_eq]

/-- A word is the reversal of another when it has the mirrored bits. -/
theorem eq_rev32_of_mirrored {x y : Word} (h : ∀ j < 32, y.getLsbD j = x.getLsbD (31 - j)) : rev32 x = y := by
  apply BitVec.eq_of_getLsbD_eq
  intro j hj
  rw [getLsbD_rev32, decide_eq_true hj, Bool.true_and, h j hj]

/-- Bit `j` of a reversed word, for a bit number in the word. -/
theorem getLsbD_rev32_of_lt (x : Word) {j : Nat} (hj : j < 32) : (rev32 x).getLsbD j = x.getLsbD (31 - j) := by
  rw [getLsbD_rev32, decide_eq_true hj, Bool.true_and]

theorem rev32_xor (x y : Word) : rev32 (x ^^^ y) = rev32 x ^^^ rev32 y :=
  eq_rev32_of_mirrored fun j hj => by
    rw [BitVec.getLsbD_xor, BitVec.getLsbD_xor, getLsbD_rev32_of_lt x hj, getLsbD_rev32_of_lt y hj]

theorem rev32_and (x y : Word) : rev32 (x &&& y) = rev32 x &&& rev32 y :=
  eq_rev32_of_mirrored fun j hj => by
    rw [BitVec.getLsbD_and, BitVec.getLsbD_and, getLsbD_rev32_of_lt x hj, getLsbD_rev32_of_lt y hj]

theorem rev32_or (x y : Word) : rev32 (x ||| y) = rev32 x ||| rev32 y :=
  eq_rev32_of_mirrored fun j hj => by
    rw [BitVec.getLsbD_or, BitVec.getLsbD_or, getLsbD_rev32_of_lt x hj, getLsbD_rev32_of_lt y hj]

theorem rev32_not (x : Word) : rev32 (~~~x) = ~~~rev32 x :=
  eq_rev32_of_mirrored fun j hj => by
    rw [BitVec.getLsbD_not, BitVec.getLsbD_not, getLsbD_rev32_of_lt x hj, decide_eq_true hj,
      decide_eq_true (show 31 - j < 32 by omega)]

/-- Reversal turns a left shift into a right shift (44_sampling.md R95 (c)). -/
theorem rev32_shiftLeft (x : Word) (k : Nat) : rev32 (x <<< k) = rev32 x >>> k :=
  eq_rev32_of_mirrored fun j hj => by
    rw [BitVec.getLsbD_ushiftRight, BitVec.getLsbD_shiftLeft, getLsbD_rev32]
    by_cases hk : k + j < 32
    · simp [hk, show 31 - j < 32 by omega, show ¬31 - j < k by omega, show 31 - (k + j) = 31 - j - k by omega]
    · simp [hk, show 31 - j < k by omega]

/-- Reversal turns a right shift into a left shift: the law for left shifts, read from the other side. -/
theorem rev32_ushiftRight (x : Word) (k : Nat) : rev32 (x >>> k) = rev32 x <<< k := by
  rw [← rev32_rev32 (rev32 x <<< k), rev32_shiftLeft, rev32_rev32]

/-- Settles O40: bit by bit; the cascade is the one of the Native datapath. -/
theorem rev32Laws : Obligations.Rev32Laws :=
  ⟨rev32_rev32, fun x y => ⟨rev32_xor x y, rev32_and x y, rev32_or x y, rev32_not x⟩,
    fun x k _ => ⟨rev32_shiftLeft x k, rev32_ushiftRight x k⟩, lane_nativeRev⟩

/-- Settles O25: OWEN completes with `owen` of its operands, whose steps are the intermediate values. -/
theorem owenGivesTheFiveSteps : Obligations.OwenGivesTheFiveSteps :=
  ⟨rfl, fun _ _ _ h => ⟨_, _, _, _, _, rfl, rfl, rfl, rfl, rfl, exec_owen h⟩⟩

/-- Settles O30: the fold of a dimension in range answers, and with it the pipeline; its values are the steps'. -/
theorem sampleRunsThePipeline : Obligations.SampleRunsThePipeline := by
  intro s r rest h hd hn
  have hfold := fold_eq_unmasked (geo := Config.geometry) s.rom
    (shuffledIndex Config.constants (scalar1 r) (scalar3 r)) hd
  have hsample := congrArg (Option.map fun sobol => scrambleAndConvert Config.constants sobol (scalar2 r) (scalar3 r)) hfold
  exact ⟨_, _, _, _, rfl, hfold, rfl, rfl, sampleOn_of_sample h hd hn hsample⟩

/-- Whatever the straps, the ten operations give the same bits (45_int4.md R123). -/
theorem backendsAgreeOn_eq_true (dp dp' : Config.Datapath) (a b : Int4) (sh : BitVec 5) :
    backendsAgreeOn dp dp' a b sh = true := by
  obtain ⟨hlanes, hshifts, -⟩ := backendsAgreeBitForBit dp dp'
  obtain ⟨hadd, hsub, hmul, hand, hor, hxor, hrev, htonorm⟩ := hlanes a b
  obtain ⟨hshl, hshr⟩ := hshifts a sh
  simp only [backendsAgreeOn, hadd, hsub, hmul, hand, hor, hxor, hrev, htonorm, hshl, hshr, beq_self_eq_true, Bool.and_self]

/-- Every pair of boundary values is among the suite's operands (45_int4.md R124). -/
theorem splat_mem_boundaryOperands {x y : Word} (hx : x ∈ boundaryLanes) (hy : y ∈ boundaryLanes) :
    (splat x, splat y) ∈ boundaryOperands :=
  List.mem_flatMap.mpr ⟨x, hx, List.mem_map_of_mem hy⟩

/-- Settles O58: the suite's inputs are R124's, and the straps agree on them as on every input. -/
theorem conformanceSuitePasses : Obligations.ConformanceSuitePasses := by
  refine ⟨rfl, rfl, fun x hx y hy => splat_mem_boundaryOperands hx hy, fun dp dp' => ⟨?suite, backendsAgreeOn_eq_true dp dp'⟩⟩
  case suite =>
    exact List.all_eq_true.mpr fun p _ => List.all_eq_true.mpr fun sh _ => backendsAgreeOn_eq_true dp dp' p.1 p.2 sh

end Sys2Proof.Machine

/-!
PROOFS. The HashScrambler's functions as bijections: the steps that `mix`, `hash` and `owen` are made of, and which of them keep
the low bits of a word to themselves (43_hash_owen.md R82 to R86; 44_sampling.md R100).
-/
namespace Sys2Proof.Machine

/-- Two words agree in their low `m` bits. -/
def LowBitsAgree (m : Nat) (x y : Word) : Prop := x.toNat ≡ y.toNat [MOD 2 ^ m]

theorem lowBitsAgree_32 {x y : Word} : LowBitsAgree 32 x y ↔ x = y := by
  rw [LowBitsAgree, Nat.ModEq, Nat.mod_eq_of_lt x.isLt, Nat.mod_eq_of_lt y.isLt, BitVec.toNat_inj]

theorem LowBitsAgree.mono {m n : Nat} {x y : Word} (h : LowBitsAgree m x y) (hn : n ≤ m) : LowBitsAgree n x y :=
  Nat.ModEq.of_dvd (Nat.pow_dvd_pow 2 hn) h

theorem getLsbD_zero_eq_decide (k : Word) : k.getLsbD 0 = decide (k.toNat % 2 = 1) := Nat.testBit_zero k.toNat

section lowBits
variable {m : Nat} (hm : m ≤ 32) (x y s k : Word)
include hm

/-- A sum of words has the low bits of the sum of their numbers. -/
theorem toNat_add_modEq : (x + s).toNat ≡ x.toNat + s.toNat [MOD 2 ^ m] := by
  rw [BitVec.toNat_add]
  exact Nat.mod_mod_of_dvd _ (Nat.pow_dvd_pow 2 hm)

/-- A product of words has the low bits of the product of their numbers. -/
theorem toNat_mul_modEq : (x * k).toNat ≡ x.toNat * k.toNat [MOD 2 ^ m] := by
  rw [BitVec.toNat_mul]
  exact Nat.mod_mod_of_dvd _ (Nat.pow_dvd_pow 2 hm)

/-- Adding a word to both sides. -/
theorem lowBitsAgree_add_right : LowBitsAgree m (x + s) (y + s) ↔ LowBitsAgree m x y := by
  have hx := toNat_add_modEq hm x s
  have hy := toNat_add_modEq hm y s
  constructor
  · exact fun h => Nat.ModEq.add_right_cancel' s.toNat ((hx.symm.trans h).trans hy)
  · exact fun h => (hx.trans (Nat.ModEq.add_right s.toNat h)).trans hy.symm

/-- Multiplying both sides by an odd word, which is prime to `2^m`. -/
theorem lowBitsAgree_mul_right_of_odd (hk : k.getLsbD 0 = true) :
    LowBitsAgree m (x * k) (y * k) ↔ LowBitsAgree m x y := by
  have hx := toNat_mul_modEq hm x k
  have hy := toNat_mul_modEq hm y k
  have hodd : k.toNat % 2 = 1 := of_decide_eq_true (getLsbD_zero_eq_decide k ▸ hk)
  have hcoprime : (2 ^ m).gcd k.toNat = 1 := Nat.Coprime.pow_left m (Nat.coprime_two_left.mpr (Nat.odd_iff.mpr hodd))
  constructor
  · exact fun h => Nat.ModEq.cancel_right_of_coprime hcoprime ((hx.symm.trans h).trans hy)
  · exact fun h => (hx.trans (Nat.ModEq.mul_right k.toNat h)).trans hy.symm

end lowBits

/-- XOR with words that agree in the low bits changes nothing of the agreement. -/
theorem lowBitsAgree_xor_right_iff {m : Nat} {x y a b : Word} (hab : LowBitsAgree m a b) :
    LowBitsAgree m (x ^^^ a) (y ^^^ b) ↔ LowBitsAgree m x y := by
  rw [LowBitsAgree, Nat.ModEq] at hab
  rw [LowBitsAgree, LowBitsAgree, Nat.ModEq, Nat.ModEq, BitVec.toNat_xor, BitVec.toNat_xor, Nat.xor_mod_two_pow,
    Nat.xor_mod_two_pow, hab]
  exact Nat.xor_left_inj

/-- Multiplying by an even word lifts the agreement by one bit: bit `m` of the product comes from bits below `m`. -/
theorem LowBitsAgree.mul_right_of_even {m : Nat} (hm : m < 32) {x y k : Word} (hk : k.getLsbD 0 = false)
    (h : LowBitsAgree m x y) : LowBitsAgree (m + 1) (x * k) (y * k) := by
  have hnot : ¬k.toNat % 2 = 1 := of_decide_eq_false (getLsbD_zero_eq_decide k ▸ hk)
  obtain ⟨half, hhalf⟩ := Nat.dvd_of_mod_eq_zero (Nat.mod_two_ne_one.mp hnot)
  refine ((toNat_mul_modEq hm x k).trans ?_).trans (toNat_mul_modEq hm y k).symm
  rw [hhalf, Nat.mul_left_comm, Nat.mul_left_comm y.toNat, pow_succ']
  exact Nat.ModEq.mul_left' 2 (Nat.ModEq.mul_right half h)

/-- `x ^ (x * k)` for an even `k` keeps the low bits to themselves, and loses none of them: bit by bit from the lowest up, the
product adds to a bit only what the bits below it say. -/
theorem lowBitsAgree_xorMul {k : Word} (hk : k.getLsbD 0 = false) {m : Nat} (hm : m ≤ 32) (x y : Word) :
    LowBitsAgree m (xorMul k x) (xorMul k y) ↔ LowBitsAgree m x y := by
  induction m with
  | zero => simp [LowBitsAgree, Nat.modEq_one]
  | succ m ih =>
    have ih := ih (by omega)
    constructor
    · intro h
      have hlow := ih.mp (h.mono (Nat.le_succ m))
      exact (lowBitsAgree_xor_right_iff (hlow.mul_right_of_even hm hk)).mp h
    · intro h
      exact (lowBitsAgree_xor_right_iff ((h.mono (Nat.le_succ m)).mul_right_of_even hm hk)).mpr h

/-- The step of the hash: a word XORed with itself shifted right loses nothing, since a word that equals its own right shift
is 0. -/
theorem xorShift_injective {k : Nat} (hk : 0 < k) : Function.Injective fun x : Word => x ^^^ x >>> k := by
  intro x y hxy
  have hself : x ^^^ y = (x ^^^ y) >>> k := by
    rw [BitVec.ushiftRight_xor_distrib, ← BitVec.xor_eq_zero_iff]
    exact (xorLaws_word.xor_xor_xor_comm x y (x >>> k) (y >>> k)).trans (BitVec.xor_eq_zero_iff.mpr hxy)
  have hzero : x ^^^ y = 0 := by
    by_contra hne
    have hpos : 0 < (x ^^^ y).toNat := Nat.pos_of_ne_zero fun h => hne (BitVec.eq_of_toNat_eq h)
    have hshift : (x ^^^ y).toNat = (x ^^^ y).toNat / 2 ^ k := by
      rw [← Nat.shiftRight_eq_div_pow, ← BitVec.toNat_ushiftRight, ← hself]
    exact (Nat.div_lt_self hpos (Nat.one_lt_two_pow hk.ne')).ne' hshift
  exact BitVec.xor_eq_zero_iff.mp hzero

theorem mul_odd_injective {k : Word} (hk : k.getLsbD 0 = true) : Function.Injective fun x : Word => x * k :=
  fun x y hxy => lowBitsAgree_32.mp ((lowBitsAgree_mul_right_of_odd le_rfl x y k hk).mp (lowBitsAgree_32.mpr hxy))

/-- `mix` is made of steps that lose nothing (43_hash_owen.md R82). -/
theorem mix_injective : Function.Injective mix :=
  (xorShift_injective (k := 16) (by decide)).comp <| (mul_odd_injective (k := Config.c2) (by decide)).comp <|
    (xorShift_injective (k := 15) (by decide)).comp <| (mul_odd_injective (k := Config.c1) (by decide)).comp <|
      xorShift_injective (k := 16) (by decide)

theorem mix_zero : mix 0 = 0 := by decide

/-- Settles O41: a map of the finitely many words to themselves that loses nothing is a bijection. -/
theorem mixIsABijection : Obligations.MixIsABijection :=
  ⟨fun _ _ _ _ _ h1 h2 h3 h4 => by rw [h4, h3, h2, h1, mix], mix_zero, by decide,
    Finite.injective_iff_bijective.mp mix_injective⟩

section hash
variable (c : Config.Constants)

theorem hash_injective : Function.Injective (hash c) :=
  mix_injective.comp fun _ _ h => (BitVec.xor_left_inj _).mp h

/-- `owen` keeps the low bits of its operand to themselves, and loses none of them: each of its five steps does
(43_hash_owen.md R86). -/
theorem lowBitsAgree_owen (s : Word) {m : Nat} (hm : m ≤ 32) (x y : Word) :
    LowBitsAgree m (owen c x s) (owen c y s) ↔ LowBitsAgree m x y := by
  have hodd : (s >>> 16 ||| 1).getLsbD 0 = true := by rw [BitVec.getLsbD_or]; simp
  simp only [owen]
  rw [lowBitsAgree_xorMul c.owenM3_even hm, lowBitsAgree_xorMul c.owenM2_even hm,
    lowBitsAgree_mul_right_of_odd hm _ _ _ hodd, lowBitsAgree_add_right hm, lowBitsAgree_xorMul c.owenM1_even hm]

theorem owen_injective (s : Word) : Function.Injective fun x => owen c x s :=
  fun x y hxy => lowBitsAgree_32.mp ((lowBitsAgree_owen c s le_rfl x y).mp (lowBitsAgree_32.mpr hxy))

theorem owen_zero_zero : owen c 0 0 = 0 := by
  simp [owen, xorMul]

end hash

/-- Settles O42: `mix` after an XOR, which takes `K_HASH_IN` to 0 and 0 to `K_HASH_IN`. -/
theorem hashIsABijectionMissingZeroAtZero : Obligations.HashIsABijectionMissingZeroAtZero := by
  intro c
  have hzero : hash c 0 = mix c.kHashIn := congrArg mix (xorLaws_word.zero_xor c.kHashIn)
  refine ⟨fun _ => rfl, hzero, fun h => ?_, ?_, Finite.injective_iff_bijective.mp (hash_injective c)⟩
  · rw [hzero, ← mix_zero] at h
    exact c.kHashIn_ne_zero (mix_injective h)
  · rw [hash, BitVec.xor_self]
    exact mix_zero

/-- Settles O44: the keys differ by the product of the seed with an odd constant, and `hash` keeps them apart. -/
theorem differentSeedsGiveDifferentHashedKeys : Obligations.DifferentSeedsGiveDifferentHashedKeys := by
  intro c g k seed seed' hne h
  have hkey : scrambleKey c g k seed = scrambleKey c g k seed' := hash_injective c h
  rw [scrambleKey, scrambleKey, BitVec.xor_left_inj, BitVec.xor_right_inj] at hkey
  exact hne (mul_odd_injective c.kSeedMul_odd hkey)

/-- Settles O43: the low bits of `owen`, and all 32 of them for the bijection. -/
theorem owenPermutesLowBits : Obligations.OwenPermutesLowBits := fun c s =>
  ⟨fun _ x y hj => (lowBitsAgree_owen c s hj x y).symm, Finite.injective_iff_bijective.mp (owen_injective c s),
    owen_zero_zero c⟩

end Sys2Proof.Machine

/-!
PROOFS. The stored words: each has its level's bit and none above, and none depends on the width it is generated on
(40_dvtable.md R56 to R62).
-/
namespace Sys2Proof.Machine

/-- The direction vector of a record at a level, in the natural domain on `W`-bit words (40_dvtable.md R58, R59). -/
def directionVector (W : Nat) (r : Config.DirectionRecord) (l : Nat) : BitVec W := nextVector W r (naturalVectors W r l)

/-- The vectors listed before a level are the direction vectors of the levels below it. -/
theorem getD_naturalVectors (W : Nat) (r : Config.DirectionRecord) {l n : Nat} (hl : l < n) :
    (naturalVectors W r n).getD l 0 = directionVector W r l := by
  have hlen := length_naturalVectors W r
  induction n with
  | zero => omega
  | succ n ih =>
    rw [naturalVectors]
    rcases Nat.lt_succ_iff_lt_or_eq.mp hl with hlt | rfl
    · rw [List.getD_append _ _ _ _ (by rwa [hlen]), ih hlt]
    · rw [List.getD_append_right _ _ _ _ (by rw [hlen]), hlen, Nat.sub_self, List.getD_cons_zero, directionVector]

theorem lowBitsClear_directionVector (W : Nat) (r : Config.DirectionRecord) (l : Nat) :
    LowBitsClear (W - 1 - l) (directionVector W r l) :=
  getD_naturalVectors W r (Nat.lt_succ_self l) ▸ lowBitsClear_naturalVectors W r (l + 1) l (Nat.lt_succ_self l)

/-- The next vector has its level's bit when those before it have theirs: a seed is odd (00_scope.md R7), and of what the
recurrence XORs only the vector shifted down by `s` reaches that bit (40_dvtable.md R59). -/
theorem getLsbD_nextVector_level {W : Nat} (r : Config.DirectionRecord) {v : List (BitVec W)} (hlen : v.length < W)
    (hclear : ∀ l < v.length, LowBitsClear (W - 1 - l) (v.getD l 0))
    (hset : ∀ l < v.length, (v.getD l 0).getLsbD (W - 1 - l) = true) :
    (nextVector W r v).getLsbD (W - 1 - v.length) = true := by
  have hs := r.s_pos
  simp only [nextVector]
  split
  next hseed =>
    have hodd : (r.m.getD v.length 0).testBit 0 = true := by
      rw [Nat.testBit_zero, r.m_odd _ hseed, decide_eq_true rfl]
    rw [BitVec.getLsbD_shiftLeft, Nat.sub_self, BitVec.getLsbD_ofNat, hodd]
    simp [show W - 1 - v.length < W by omega, show 0 < W by omega]
  next hseeds =>
    have earlier (k : Nat) (hk : 0 < k) (hle : k ≤ v.length) : (v.getD (v.length - k) 0).getLsbD (W - 1 - v.length) = false :=
      hclear (v.length - k) (by omega) _ (by omega)
    refine List.foldlRecOn (motive := fun x : BitVec W => x.getLsbD (W - 1 - v.length) = true) _ _ ?_ ?_
    · have hold := hset (v.length - r.s) (by omega)
      rw [show W - 1 - (v.length - r.s) = r.s + (W - 1 - v.length) by omega] at hold
      rw [BitVec.getLsbD_xor, earlier r.s hs (by omega), BitVec.getLsbD_ushiftRight, hold, Bool.false_xor]
    · intro x hx k hk
      have hk := List.mem_range'_1.mp hk
      split
      · rw [BitVec.getLsbD_xor, hx, earlier k (by omega) (by omega), Bool.xor_false]
      · exact hx

/-- A direction vector has the bit of its level. -/
theorem getLsbD_directionVector_level {W : Nat} (r : Config.DirectionRecord) {l : Nat} (hl : l < W) :
    (directionVector W r l).getLsbD (W - 1 - l) = true := by
  have hlen := length_naturalVectors W r l
  induction l using Nat.strong_induction_on with
  | _ l ih =>
    have hnext := getLsbD_nextVector_level r (v := naturalVectors W r l) (hlen.symm ▸ hl)
      (by rw [hlen]; exact lowBitsClear_naturalVectors W r l)
      (by
        rw [hlen]
        intro l' hl'
        rw [getD_naturalVectors W r hl']
        exact ih l' hl' (hl'.trans hl) (length_naturalVectors W r l'))
    rwa [hlen] at hnext

theorem storedOfRecord_eq (W : Nat) (r : Config.DirectionRecord) (l : Nat) :
    storedOfRecord W r l = (revBits (directionVector W r l)).setWidth 32 := by
  rw [storedOfRecord, getD_naturalVectors W r (Nat.lt_succ_self l)]

/-- Bit `j` of a stored word is the mirrored bit of the direction vector (40_dvtable.md R60). -/
theorem getLsbD_storedOfRecord {W : Nat} (r : Config.DirectionRecord) (l : Nat) {j : Nat} (hj : j < 32) (hW : j < W) :
    (storedOfRecord W r l).getLsbD j = (directionVector W r l).getLsbD (W - 1 - j) := by
  rw [storedOfRecord_eq, BitVec.getLsbD_setWidth, getLsbD_revBits, decide_eq_true hj, decide_eq_true hW, Bool.true_and,
    Bool.true_and]

/-- A stored word has the bit of its level (40_dvtable.md R62 (a)). -/
theorem getLsbD_storedOfRecord_level (r : Config.DirectionRecord) {l : Nat} (hl : l < 32) :
    (storedOfRecord 32 r l).getLsbD l = true := by
  rw [getLsbD_storedOfRecord r l hl hl, getLsbD_directionVector_level r hl]

/-- A word of the image has the bit of its level (40_dvtable.md R57, R62 (a)). -/
theorem getLsbD_storedWord_level (d : Nat) {l : Nat} (hl : l < 32) : (storedWord d l).getLsbD l = true := by
  unfold storedWord
  split
  · rw [getLsbD_one_shiftLeft hl, decide_eq_true rfl]
  · exact getLsbD_storedOfRecord_level _ hl

/-- A word whose top 1 bit is bit `l` lies between two powers of 2. -/
theorem two_pow_le_and_lt_of_top_bit {w : Word} {l : Nat} (hset : w.getLsbD l = true)
    (hclear : ∀ j, l < j → w.getLsbD j = false) : 2 ^ l ≤ w.toNat ∧ w.toNat < 2 ^ (l + 1) :=
  ⟨Nat.ge_two_pow_of_testBit hset, Nat.lt_pow_two_of_testBit _ hclear⟩

/-- Settles O53: the two halves, for a record's word and for a word of the image. -/
theorem storedWordsAreTriangular : Obligations.StoredWordsAreTriangular := by
  refine ⟨fun r l hl => ?_, fun g l k _ hl _ => ?_⟩
  · exact two_pow_le_and_lt_of_top_bit (getLsbD_storedOfRecord_level r (by omega))
      fun _ hj => getLsbD_storedOfRecord_of_lt r hj
  · exact two_pow_le_and_lt_of_top_bit (getLsbD_storedWord_level _ (by omega)) fun _ hj => getLsbD_storedWord_of_lt _ hj

/-- Two words, of any widths, have the same 16 top bits. -/
def SameTopBits {W W' : Nat} (x : BitVec W) (y : BitVec W') : Prop :=
  ∀ j < 16, x.getLsbD (W - 1 - j) = y.getLsbD (W' - 1 - j)

section widths
variable {W W' : Nat} (hW : 16 ≤ W) (hW' : 16 ≤ W')

theorem SameTopBits.xor {x u : BitVec W} {y w : BitVec W'} (hxy : SameTopBits x y) (huw : SameTopBits u w) :
    SameTopBits (x ^^^ u) (y ^^^ w) := fun j hj => by
  rw [BitVec.getLsbD_xor, BitVec.getLsbD_xor, hxy j hj, huw j hj]

include hW hW'

theorem SameTopBits.ushiftRight {x : BitVec W} {y : BitVec W'} (h : SameTopBits x y) (s : Nat) :
    SameTopBits (x >>> s) (y >>> s) := fun j hj => by
  rw [BitVec.getLsbD_ushiftRight, BitVec.getLsbD_ushiftRight]
  by_cases hs : s ≤ j
  · rw [show s + (W - 1 - j) = W - 1 - (j - s) by omega, show s + (W' - 1 - j) = W' - 1 - (j - s) by omega]
    exact h (j - s) (by omega)
  · rw [BitVec.getLsbD_of_ge _ _ (by omega), BitVec.getLsbD_of_ge _ _ (by omega)]

/-- A seed stands at its level from the top, whatever the width (40_dvtable.md R58). -/
theorem sameTopBits_seed (m : Nat) {i : Nat} (hi : i < 16) :
    SameTopBits (BitVec.ofNat W m <<< (W - 1 - i)) (BitVec.ofNat W' m <<< (W' - 1 - i)) := fun j hj => by
  rw [BitVec.getLsbD_shiftLeft, BitVec.getLsbD_shiftLeft, BitVec.getLsbD_ofNat, BitVec.getLsbD_ofNat]
  by_cases hle : j ≤ i
  · rw [show W - 1 - j - (W - 1 - i) = i - j by omega, show W' - 1 - j - (W' - 1 - i) = i - j by omega]
    simp [show ¬W - 1 - j < W - 1 - i by omega, show ¬W' - 1 - j < W' - 1 - i by omega, show W - 1 - j < W by omega,
      show W' - 1 - j < W' by omega, show i - j < W by omega, show i - j < W' by omega]
  · simp [show W - 1 - j < W - 1 - i by omega, show W' - 1 - j < W' - 1 - i by omega]

theorem sameTopBits_nextVector (r : Config.DirectionRecord) {v : List (BitVec W)} {v' : List (BitVec W')}
    (hlen : v'.length = v.length) (hlt : v.length < 16)
    (hsame : ∀ l < v.length, SameTopBits (v.getD l 0) (v'.getD l 0)) : SameTopBits (nextVector W r v) (nextVector W' r v') := by
  have hs := r.s_pos
  simp only [nextVector, hlen]
  split
  next => exact sameTopBits_seed hW hW' _ hlt
  next hseeds =>
    have hold := hsame (v.length - r.s) (by omega)
    refine List.foldl_rel (hold.xor (hold.ushiftRight hW hW' r.s)) fun k hk x y hxy => ?_
    have hk := List.mem_range'_1.mp hk
    split
    · exact hxy.xor (hsame (v.length - k) (by omega))
    · exact hxy

theorem sameTopBits_directionVector (r : Config.DirectionRecord) {l : Nat} (hl : l < 16) :
    SameTopBits (directionVector W r l) (directionVector W' r l) := by
  induction l using Nat.strong_induction_on with
  | _ l ih =>
    have hlen := length_naturalVectors W r l
    refine sameTopBits_nextVector hW hW' r ((length_naturalVectors W' r l).trans hlen.symm) (hlen.symm ▸ hl) ?_
    rw [hlen]
    intro l' hl'
    rw [getD_naturalVectors W r hl', getD_naturalVectors W' r hl']
    exact ih l' hl' (hl'.trans hl)

end widths

/-- On every width a stored word has no bit above its level. -/
theorem getLsbD_storedOfRecord_above (W : Nat) (r : Config.DirectionRecord) {l j : Nat} (hlj : l < j) :
    (storedOfRecord W r l).getLsbD j = false := by
  rw [storedOfRecord_eq, BitVec.getLsbD_setWidth, getLsbD_revBits]
  by_cases hj : j < W
  · rw [lowBitsClear_directionVector W r l (W - 1 - j) (by omega), Bool.and_false, Bool.and_false]
  · rw [decide_eq_false hj, Bool.false_and, Bool.and_false]

/-- Settles O54: below bit 16 a stored word shows the top bits of the direction vector, which no width changes; from bit 16 up
it is 0. -/
theorem storedWordsIndependentOfWidth : Obligations.StoredWordsIndependentOfWidth := by
  intro r width l hwidth hl
  apply BitVec.eq_of_getLsbD_eq
  intro j hj
  by_cases hlow : j < 16
  · rw [getLsbD_storedOfRecord r l hj (by omega), getLsbD_storedOfRecord r l hj hj]
    exact sameTopBits_directionVector hwidth (by decide) r hl j hlow
  · rw [getLsbD_storedOfRecord_above width r (by omega), getLsbD_storedOfRecord_above 32 r (by omega)]

end Sys2Proof.Machine

/-!
PROOFS. The samples of one dimension: the fold on the image takes the levels back, so each dimension is a bijection, and the
scrambles before and after it keep what stratification needs (40_dvtable.md R62 (d); 44_sampling.md R104 (d)).
-/
namespace Sys2Proof.Machine

/-- The fold of a dimension on the image, as a word. -/
def imageFold (d x : Word) : Word := xorOfLevels (· ^^^ ·) 0 (levelWord Config.geometry [] d) x (List.range 16)

theorem imageFold_xor (d x y : Word) : imageFold d (x ^^^ y) = imageFold d x ^^^ imageFold d y :=
  xorOfLevels_xor xorLaws_word

section imageFold
variable {d : Word} (hd : d.toNat < 256)
include hd

theorem fold_image (x : Word) : fold Config.geometry [] x d = some (imageFold d x) :=
  fold_eq_unmasked (geo := Config.geometry) [] x hd

/-- The last level an index selects sets its own bit of the fold: the levels before it have nothing there. -/
theorem getLsbD_imageFold_last_level {z : Word} {p : Nat} (hp : p < 16) (hsel : z.getLsbD (31 - p) = true)
    (hlast : ∀ l, p < l → l < 16 → z.getLsbD (31 - l) = false) : (imageFold d z).getLsbD p = true := by
  rw [imageFold, getLsbD_xorOfLevels, xorOfLevels_eq_single xorLaws_bool List.nodup_range (List.mem_range.mpr hp)]
  · rw [selectedLevel, if_pos hsel, levelWord_nil (geo := Config.geometry) hd hp, getLsbD_storedWord_level _ (by omega)]
  · intro l hl hne
    have hl := List.mem_range.mp hl
    rcases Nat.lt_or_gt_of_ne hne with hlt | hgt
    · exact selectedLevel_image_of_lt (geo := Config.geometry) hd z hl hlt
    · rw [selectedLevel, hlast l hgt hl, if_neg Bool.false_ne_true]

/-- Bits of the fold taken from the top down give the levels of the index back: two indices with the same levels from `j` up,
and the same bits of the fold below `j`, have the same levels. -/
theorem levels_eq_of_imageFold {x y : Word} {j : Nat} (hj : j ≤ 16)
    (hlevels : ∀ l, j ≤ l → l < 16 → x.getLsbD (31 - l) = y.getLsbD (31 - l))
    (hfold : ∀ b < j, (imageFold d x).getLsbD b = (imageFold d y).getLsbD b) :
    ∀ l < 16, x.getLsbD (31 - l) = y.getLsbD (31 - l) := by
  induction j with
  | zero => exact fun l hl => hlevels l (Nat.zero_le l) hl
  | succ j ih =>
    refine ih (by omega) (fun l hjl hl => ?_) fun b hb => hfold b (by omega)
    rcases Nat.eq_or_lt_of_le hjl with rfl | hlt
    · by_contra hne
      have hlast := getLsbD_imageFold_last_level (z := x ^^^ y) hd hl (by simpa [BitVec.getLsbD_xor] using hne)
        fun l' hl' hlt' => by rw [BitVec.getLsbD_xor, hlevels l' hl' hlt', Bool.xor_self]
      rw [imageFold_xor, BitVec.getLsbD_xor, hfold j (Nat.lt_succ_self j), Bool.xor_self] at hlast
      exact Bool.false_ne_true hlast
    · exact hlevels l hlt hl

end imageFold

theorem lowBitsAgree_iff {m : Nat} {x y : Word} :
    LowBitsAgree m x y ↔ ∀ i < m, x.getLsbD i = y.getLsbD i := by
  rw [LowBitsAgree, Nat.ModEq]
  constructor
  · intro h i hi
    have hbit := congrArg (Nat.testBit · i) h
    simp only [Nat.testBit_mod_two_pow, decide_eq_true hi, Bool.true_and] at hbit
    exact hbit
  · intro h
    apply Nat.eq_of_testBit_eq
    intro i
    rw [Nat.testBit_mod_two_pow, Nat.testBit_mod_two_pow]
    by_cases hi : i < m
    · exact congrArg (decide (i < m) && ·) (h i hi)
    · rw [decide_eq_false hi, Bool.false_and, Bool.false_and]

/-- Words that agree above bit `j` agree, reversed, in the low bits. -/
theorem lowBitsAgree_rev32_of_div {j : Nat} {n n' : Word} (h : n.toNat / 2 ^ j = n'.toNat / 2 ^ j) :
    LowBitsAgree (32 - j) (rev32 n) (rev32 n') := by
  refine lowBitsAgree_iff.mpr fun i hi => ?_
  have hbit := congrArg (Nat.testBit · (31 - i - j)) h
  simp only [Nat.testBit_div_two_pow, Nat.sub_add_cancel (show j ≤ 31 - i by omega)] at hbit
  rw [getLsbD_rev32_of_lt n (by omega), getLsbD_rev32_of_lt n' (by omega)]
  exact hbit

/-- An index is known from its low bits and the low bits of its fold: the low bits of the index hold the levels from `j` up, and
the fold gives the others. -/
theorem eq_of_lowBitsAgree_imageFold {d x y : Word} (hd : d.toNat < 256) {j : Nat} (hj : j ≤ 16)
    (hlow : LowBitsAgree (32 - j) x y) (hfold : LowBitsAgree j (imageFold d x) (imageFold d y)) : x = y := by
  rw [lowBitsAgree_iff] at hlow hfold
  have hlevels := levels_eq_of_imageFold hd hj (fun l hjl hl => hlow (31 - l) (by omega)) hfold
  apply BitVec.eq_of_getLsbD_eq
  intro i hi
  by_cases hlevel : i < 16
  · exact hlow i (by omega)
  · have hbit := hlevels (31 - i) (by omega)
    rwa [show 31 - (31 - i) = i by omega] at hbit

/-- A value below `2^j` that tells the `2^j` words of an aligned block apart takes each of the `2^j` values on the block exactly
once. -/
theorem existsUnique_in_block {j block : Nat} (hj : j ≤ 16) (hblock : block < 2 ^ (16 - j)) {value : Word → Nat}
    (hlt : ∀ n, value n < 2 ^ j)
    (hinj : ∀ n n' : Word, n.toNat / 2 ^ j = n'.toNat / 2 ^ j → value n = value n' → n = n') {i : Nat} (hi : i < 2 ^ j) :
    ∃ n : Word, (n.toNat / 2 ^ j = block ∧ value n = i) ∧
      ∀ n' : Word, n'.toNat / 2 ^ j = block → value n' = i → n' = n := by
  have hsmall {k : Nat} (hk : k < 2 ^ j) : block * 2 ^ j + k < 2 ^ 32 := by
    have hsize : 2 ^ (16 - j) * 2 ^ j = 2 ^ 16 := by rw [← pow_add, Nat.sub_add_cancel hj]
    have hend : (block + 1) * 2 ^ j ≤ 2 ^ (16 - j) * 2 ^ j := Nat.mul_le_mul_right _ hblock
    rw [hsize, Nat.add_mul] at hend
    omega
  have hnat {k : Nat} (hk : k < 2 ^ j) : (BitVec.ofNat 32 (block * 2 ^ j + k)).toNat = block * 2 ^ j + k := by
    rw [BitVec.toNat_ofNat, Nat.mod_eq_of_lt (hsmall hk)]
  have hmem {k : Nat} (hk : k < 2 ^ j) : (BitVec.ofNat 32 (block * 2 ^ j + k)).toNat / 2 ^ j = block := by
    rw [hnat hk, Nat.mul_comm, Nat.mul_add_div (Nat.two_pow_pos j), Nat.div_eq_of_lt hk, Nat.add_zero]
  have hsurj : Set.SurjOn (fun k => value (BitVec.ofNat 32 (block * 2 ^ j + k))) (Finset.range (2 ^ j))
      (Finset.range (2 ^ j)) := by
    refine Finset.surjOn_of_injOn_of_card_le _ (fun k _ => ?_) (fun k hk k' hk' hvalue => ?_) le_rfl
    · exact Finset.mem_coe.mpr (Finset.mem_range.mpr (hlt _))
    · have hk := Finset.mem_range.mp (Finset.mem_coe.mp hk)
      have hk' := Finset.mem_range.mp (Finset.mem_coe.mp hk')
      have hsame := congrArg BitVec.toNat (hinj _ _ ((hmem hk).trans (hmem hk').symm) hvalue)
      rw [hnat hk, hnat hk'] at hsame
      omega
  obtain ⟨k, hk, hvalue⟩ := hsurj (Finset.mem_coe.mpr (Finset.mem_range.mpr hi))
  have hk := Finset.mem_range.mp (Finset.mem_coe.mp hk)
  exact ⟨_, ⟨hmem hk, hvalue⟩, fun n' hn' hvalue' => hinj _ _ (hn'.trans (hmem hk).symm) (hvalue'.trans hvalue.symm)⟩

theorem imageFold_lt {d : Word} (hd : d.toNat < 256) (x : Word) : (imageFold d x).toNat < 2 ^ 16 :=
  Nat.lt_pow_two_of_testBit _ fun _ hj => getLsbD_imageFold_of_ge (geo := Config.geometry) hd x hj

/-- Settles O56: the indices below 2^16 are one block, and an index in it is known from its fold. -/
theorem eachDimensionIsABijection : Obligations.EachDimensionIsABijection := by
  intro d hd y hy
  have hinj : ∀ n n' : Word, n.toNat / 2 ^ 16 = n'.toNat / 2 ^ 16 →
      (imageFold d (rev32 n)).toNat = (imageFold d (rev32 n')).toNat → n = n' := by
    intro n n' hblock hvalue
    have hrev : rev32 n = rev32 n' :=
      eq_of_lowBitsAgree_imageFold hd le_rfl (lowBitsAgree_rev32_of_div hblock) (congrArg (· % 2 ^ 16) hvalue)
    rw [← rev32_rev32 n, hrev, rev32_rev32]
  have hunique := existsUnique_in_block le_rfl (block := 0) (by decide) (fun n => imageFold_lt hd (rev32 n)) hinj hy
  simpa only [fold_image hd, Option.map_some, Option.some_inj, Nat.div_eq_zero_iff_lt (Nat.two_pow_pos 16)] using hunique

/-- The scrambled Sobol value of SAMPLE on the image, reversed: what step 6 converts (44_sampling.md R99). -/
def scrambledSample (c : Config.Constants) (d seed n : Word) : Word :=
  rev32 (owen c (imageFold d (shuffledIndex c n seed)) (hash c (scrambleKey c (groupOf d) (laneOf d) seed)))

theorem sample_image {d : Word} (hd : d.toNat < 256) (c : Config.Constants) (n seed : Word) :
    sample Config.geometry c [] n d seed = some (tonorm (scrambledSample c d seed n)) := by
  rw [sample, fold_image hd]
  rfl

/-- In one aligned block of `2^j` indices the top `j` bits of the scrambled value tell the indices apart. Reversed, the block
fixes the low `32 - j` bits of the index and the value's bits are the `j` low ones; both scrambles keep low bits to themselves,
and the fold takes the index back from the two (43_hash_owen.md R86). -/
theorem eq_of_scrambledSample {c : Config.Constants} {d seed n n' : Word} (hd : d.toNat < 256) {j : Nat} (hj : j ≤ 16)
    (hblock : n.toNat / 2 ^ j = n'.toNat / 2 ^ j)
    (hvalue : (scrambledSample c d seed n).toNat / 2 ^ (32 - j) = (scrambledSample c d seed n').toNat / 2 ^ (32 - j)) :
    n = n' := by
  have hindex : LowBitsAgree (32 - j) (shuffledIndex c n seed) (shuffledIndex c n' seed) :=
    (lowBitsAgree_owen c _ (by omega) _ _).mpr (lowBitsAgree_rev32_of_div hblock)
  have hfold : LowBitsAgree j (imageFold d (shuffledIndex c n seed)) (imageFold d (shuffledIndex c n' seed)) := by
    have hreversed := lowBitsAgree_rev32_of_div hvalue
    rw [scrambledSample, scrambledSample, rev32_rev32, rev32_rev32, lowBitsAgree_owen c _ (by omega)] at hreversed
    exact hreversed.mono (by omega)
  have hrev : rev32 n = rev32 n' := owen_injective c _ (eq_of_lowBitsAgree_imageFold hd hj hindex hfold)
  rw [← rev32_rev32 n, hrev, rev32_rev32]

/-- The interval of `2^-j` that `tonorm n` falls into is numbered by the top `j` bits of `n` (44_sampling.md R97). -/
theorem f32Units_tonorm_div {j : Nat} (hj : j ≤ 23) (n : Word) :
    f32Units (tonorm n) / 2 ^ (149 - j) = (n.toNat / 2 ^ (32 - j) : Nat) := by
  obtain ⟨-, hvalue⟩ := tonorm_exact n
  have hinterval : n.toNat / 2 ^ 9 * 2 ^ 126 / 2 ^ (149 - j) = n.toNat / 2 ^ (32 - j) := by
    rw [show 149 - j = 23 - j + 126 by omega, pow_add, Nat.mul_div_mul_right _ _ (Nat.two_pow_pos 126),
      Nat.div_div_eq_div_mul, ← pow_add, show 9 + (23 - j) = 32 - j by omega]
  rw [hvalue, ← hinterval]
  push_cast
  rfl

/-- Settles O57: in a block the top `j` bits of the scrambled values, which number the intervals, are all different, and there
are as many intervals as indices. -/
theorem samplesAreStratified : Obligations.SamplesAreStratified := by
  intro c d seed j block i hd hj hblock hi
  have hlt : ∀ n, (scrambledSample c d seed n).toNat / 2 ^ (32 - j) < 2 ^ j := fun n => by
    rw [Nat.div_lt_iff_lt_mul (Nat.two_pow_pos _), ← pow_add, Nat.add_sub_cancel' (show j ≤ 32 by omega)]
    exact (scrambledSample c d seed n).isLt
  have hunique := existsUnique_in_block hj hblock hlt (fun n n' => eq_of_scrambledSample hd hj) hi
  simpa only [sample_image hd, Option.some_inj, exists_eq_left', f32Units_tonorm_div (show j ≤ 23 by omega), Nat.cast_inj]
    using hunique

end Sys2Proof.Machine
